-- ==== Sys2Proof/Word.lean ====
section
/-! DEFINITION. Bytes, 32-bit words, and the bit vectors that cross the command port (00_scope.md R10, 30_encoding.md R60). -/

namespace Sys2Proof

/-- A byte, 8 bits (R10). -/
abbrev Byte := BitVec 8

/-- A word, 32 bits (R10). `+` on it is the spec's `+32`: addition modulo 2^32 (R11, R122). -/
abbrev Word := BitVec 32

/-- A command or response packet: a finite bit vector, bit 0 least significant (R60). -/
structure Packet where
  len  : Nat
  bits : BitVec len
deriving DecidableEq, Repr

end Sys2Proof
end

