-- ==== Sys2Proof/Config.lean ====
section
/-! DEFINITION. What one instance of the engine fixes (00_scope.md R8), the initialization vector (R7), and the free
values: what the spec leaves unspecified (10_state.md R21, R30 to R35). -/

namespace Sys2Proof

/-- The four working registers, or a snapshot of them (10_state.md R23, R30). -/
structure Regs where
  a : Word
  b : Word
  c : Word
  d : Word
deriving DecidableEq, Repr

/-- The parameters of an instance (R8, R22): `msgCap` is MSG_CAP in bytes, `pbCap` is PB_CAP in words. -/
structure Params where
  msgCap : Nat
  pbCap  : Nat
deriving DecidableEq, Repr

/-- The bounds R8 gives for the parameters. -/
abbrev Params.valid (p : Params) : Prop :=
  p.msgCap ≤ 2 ^ 61 - 1 ∧ p.pbCap % 16 = 0 ∧ 16 ≤ p.pbCap ∧ p.pbCap ≤ 2 ^ 32 - 16

namespace Config

/-- The largest parameters R8 allows. DESIGN CHOICE (log 1): `State.reset` uses them. -/
def largest : Params := { msgCap := 2 ^ 61 - 1, pbCap := 2 ^ 32 - 16 }

/-- The canonical initialization vector (R7). -/
def iv : Regs := { a := 0x67452301#32, b := 0xefcdab89#32, c := 0x98badcfe#32, d := 0x10325476#32 }

/-! Free values. Each is applied to the epoch (how often transient state has been given up) and, for a buffer or a
register file, to an index. None has a body, so nothing can be proved of any value (logs 3 and 4). -/

/-- MB[i] where nothing has written it (R33: "Contents after reset and after a command ends: unspecified"). -/
opaque freeByte : Nat → Nat → Byte

/-- PB[j] where nothing has written it (R33). -/
opaque freeWord : Nat → Nat → Word

/-- AA, BB, CC, DD (index 0 to 3) between commands (R30: "Value after reset and between commands: unspecified"). -/
opaque freeSnap : Nat → Nat → Word

/-- LEN between commands (R21, R32). -/
opaque freeLen : Nat → BitVec 64

/-- WCNT between commands (R21, R32). -/
opaque freeWcnt : Nat → BitVec 32

/-- blk between commands (R21, R35). -/
opaque freeBlk : Nat → BitVec 28

/-- t between commands (R21, R35). -/
opaque freeT : Nat → BitVec 6

end Config
end Sys2Proof
end

