-- ==== Sys2Proof/Syntax.lean ====
section
/-! DEFINITION. The instructions: one constructor for each of the 55 rows of opcode_table.json (30_encoding.md R66, R74). -/

namespace Sys2Proof

/-- The names of the four working registers (00_scope.md R12). -/
inductive Reg where
  | A | B | C | D
deriving DecidableEq, Repr

/-- The seven commands of the host and the 48 steps of the sequencer. The operand `L` of PAD and DIGEST and the operand
`Wn` of COMPRESS are the lengths of the lists (R64, R65; R75: "`L` and `Wn` are not written: the assembler counts them"). -/
inductive Instr where
  | pad (msg : List Byte)
  | compress (words : List Word)
  | format
  | setState (a b c d : Word)
  | resetIv
  | getState
  | digest (msg : List Byte)
  | step00
  | step01
  | step02
  | step03
  | step04
  | step05
  | step06
  | step07
  | step08
  | step09
  | step10
  | step11
  | step12
  | step13
  | step14
  | step15
  | step16
  | step17
  | step18
  | step19
  | step20
  | step21
  | step22
  | step23
  | step24
  | step25
  | step26
  | step27
  | step28
  | step29
  | step30
  | step31
  | step32
  | step33
  | step34
  | step35
  | step36
  | step37
  | step38
  | step39
  | step40
  | step41
  | step42
  | step43
  | step44
  | step45
  | step46
  | step47
deriving DecidableEq, Repr

end Sys2Proof
end

