-- ==== Sys2Proof/WellFormed.lean ====
section
/-! DEFINITION. Which instructions have an encoding: the counts fit their fields (30_encoding.md R64, R65, R73: within a
legal command every value of every other operand field is legal). -/

namespace Sys2Proof

/-- `L` fits 64 bits (R64) and `Wn` fits 32 bits (R65); every other instruction is well formed as it stands. -/
def Instr.wellFormed : Instr → Bool
  | .pad msg => decide (msg.length < 2 ^ 64)
  | .compress words => decide (words.length < 2 ^ 32)
  | .digest msg => decide (msg.length < 2 ^ 64)
  | .format | .setState _ _ _ _ | .resetIv | .getState => true
  | .step00 | .step01 | .step02 | .step03 | .step04 | .step05 | .step06 | .step07 | .step08 | .step09 | .step10 | .step11 | .step12 | .step13 | .step14 | .step15
  | .step16 | .step17 | .step18 | .step19 | .step20 | .step21 | .step22 | .step23 | .step24 | .step25 | .step26 | .step27 | .step28 | .step29 | .step30 | .step31
  | .step32 | .step33 | .step34 | .step35 | .step36 | .step37 | .step38 | .step39 | .step40 | .step41 | .step42 | .step43 | .step44 | .step45 | .step46 | .step47 => true

/-- The instruction is well formed. -/
abbrev WellFormed (i : Instr) : Prop := i.wellFormed = true

end Sys2Proof
end

