-- ==== Sys2Proof/Decode.lean ====
section
/-! DEFINITION. Packets to commands and sequencer values to steps (30_encoding.md), total on any bits, rejecting by name;
after it the encoder, written from the same formats. -/

namespace Sys2Proof

/-- What the decoder makes of a bit vector presented as a command packet. -/
inductive Decoded where
  /-- A command packet (R61 to R66, R71). -/
  | command (i : Instr)
  /-- Reserved opcode or nonzero reserved bits (R73): the engine answers ILLEGAL, or HALTED. -/
  | illegal
  /-- Not a command packet: no header, or not the length its header and count give (R72). -/
  | malformed
deriving DecidableEq, Repr

/-- `v[lo+w-1 : lo]` of a packet (R10). -/
def Packet.field (p : Packet) (lo w : Nat) : BitVec w := p.bits.extractLsb' lo w

/-- Fields of one width laid end to end, the first at the least significant bits (R64, R65, R69). -/
def packFields {w : Nat} : List (BitVec w) → Nat
  | [] => 0
  | x :: xs => x.toNat + 2 ^ w * packFields xs

/-- The first `n` fields of width `w` of the number `v`, least significant first (R64, R65). -/
def unpackFields (w : Nat) : Nat → Nat → List (BitVec w)
  | 0, _ => []
  | n + 1, v => BitVec.ofNat w v :: unpackFields w n (v / 2 ^ w)

/-- The length R71 gives for a packet's header and count; none when the header is illegal (R73). -/
def Packet.claimedLength (p : Packet) : Option Nat :=
  if p.field 4 4 ≠ 0#4 then none
  else match (p.field 0 4).toNat with
    | 1 => some (72 + 8 * (p.field 8 64).toNat)
    | 2 => some (40 + 32 * (p.field 8 32).toNat)
    | 3 => some 8
    | 4 => some 136
    | 5 => some 8
    | 6 => some 8
    | 7 => some (72 + 8 * (p.field 8 64).toNat)
    | _ => none

/-- The bytes `msg[0..L-1]` of a packet of format M (R64). -/
def Packet.message (p : Packet) : List Byte :=
  unpackFields 8 (p.field 8 64).toNat (p.bits.toNat >>> 72)

/-- The words `word[0..Wn-1]` of a packet of format W (R65). -/
def Packet.words (p : Packet) : List Word :=
  unpackFields 32 (p.field 8 32).toNat (p.bits.toNat >>> 40)

/-- The command of a packet by its opcode (R66), with the operands of its format (R62 to R65, R70). -/
def Packet.command (p : Packet) : Decoded :=
  match (p.field 0 4).toNat with
  | 1 => .command (.pad p.message)
  | 2 => .command (.compress p.words)
  | 3 => .command .format
  | 4 => .command (.setState (p.field 8 32) (p.field 40 32) (p.field 72 32) (p.field 104 32))
  | 5 => .command .resetIv
  | 6 => .command .getState
  | 7 => .command (.digest p.message)
  | _ => .illegal

/-- The command packet decoder (R71 to R73): the header first, then the length. A vector shorter than a header is no
packet (log 8). -/
def decode (p : Packet) : Decoded :=
  if p.len < 8 then .malformed
  else match p.claimedLength with
    | none => .illegal
    | some n => if p.len = n then p.command else .malformed

/-- The step a sequencer value selects (R74); none where `t[5:4] = 3`, which never occurs. -/
def decodeStep (t : BitVec 6) : Option Instr :=
  match t.toNat with
  | 0 => some .step00
  | 1 => some .step01
  | 2 => some .step02
  | 3 => some .step03
  | 4 => some .step04
  | 5 => some .step05
  | 6 => some .step06
  | 7 => some .step07
  | 8 => some .step08
  | 9 => some .step09
  | 10 => some .step10
  | 11 => some .step11
  | 12 => some .step12
  | 13 => some .step13
  | 14 => some .step14
  | 15 => some .step15
  | 16 => some .step16
  | 17 => some .step17
  | 18 => some .step18
  | 19 => some .step19
  | 20 => some .step20
  | 21 => some .step21
  | 22 => some .step22
  | 23 => some .step23
  | 24 => some .step24
  | 25 => some .step25
  | 26 => some .step26
  | 27 => some .step27
  | 28 => some .step28
  | 29 => some .step29
  | 30 => some .step30
  | 31 => some .step31
  | 32 => some .step32
  | 33 => some .step33
  | 34 => some .step34
  | 35 => some .step35
  | 36 => some .step36
  | 37 => some .step37
  | 38 => some .step38
  | 39 => some .step39
  | 40 => some .step40
  | 41 => some .step41
  | 42 => some .step42
  | 43 => some .step43
  | 44 => some .step44
  | 45 => some .step45
  | 46 => some .step46
  | 47 => some .step47
  | _ => none

/-- The bits that select an instruction: a command packet, or the sequencer value of a step (R66, R74). -/
inductive InstrBits where
  | packet (p : Packet)
  | sequencer (t : BitVec 6)
deriving DecidableEq, Repr

/-- Decoding either kind of bits. -/
def decodeBits : InstrBits → Option Instr
  | .packet p =>
    match decode p with
    | .command i => some i
    | .illegal => none
    | .malformed => none
  | .sequencer t => decodeStep t

/-- A packet of `len` bits with value `v`. -/
def Packet.ofNat (len v : Nat) : Packet := { len := len, bits := BitVec.ofNat len v }

/-- Format H with opcode `op` (R62). -/
def encodeHeader (op : Nat) : Packet := Packet.ofNat 8 op

/-- Format M with opcode `op` (R64). -/
def encodeMessage (op : Nat) (msg : List Byte) : Packet :=
  Packet.ofNat (72 + 8 * msg.length) (op + 2 ^ 8 * msg.length + 2 ^ 72 * packFields msg)

/-- Format W with opcode `op` (R65). -/
def encodeWords (op : Nat) (words : List Word) : Packet :=
  Packet.ofNat (40 + 32 * words.length) (op + 2 ^ 8 * words.length + 2 ^ 40 * packFields words)

/-- Format S with opcode `op` (R63). -/
def encodeState (op : Nat) (a b c d : Word) : Packet :=
  Packet.ofNat 136 (op + 2 ^ 8 * packFields [a, b, c, d])

/-- The encoder (R62 to R66, R74). -/
def encode : Instr → InstrBits
  | .pad msg => .packet (encodeMessage 1 msg)
  | .compress words => .packet (encodeWords 2 words)
  | .format => .packet (encodeHeader 3)
  | .setState a b c d => .packet (encodeState 4 a b c d)
  | .resetIv => .packet (encodeHeader 5)
  | .getState => .packet (encodeHeader 6)
  | .digest msg => .packet (encodeMessage 7 msg)
  | .step00 => .sequencer 0#6
  | .step01 => .sequencer 1#6
  | .step02 => .sequencer 2#6
  | .step03 => .sequencer 3#6
  | .step04 => .sequencer 4#6
  | .step05 => .sequencer 5#6
  | .step06 => .sequencer 6#6
  | .step07 => .sequencer 7#6
  | .step08 => .sequencer 8#6
  | .step09 => .sequencer 9#6
  | .step10 => .sequencer 10#6
  | .step11 => .sequencer 11#6
  | .step12 => .sequencer 12#6
  | .step13 => .sequencer 13#6
  | .step14 => .sequencer 14#6
  | .step15 => .sequencer 15#6
  | .step16 => .sequencer 16#6
  | .step17 => .sequencer 17#6
  | .step18 => .sequencer 18#6
  | .step19 => .sequencer 19#6
  | .step20 => .sequencer 20#6
  | .step21 => .sequencer 21#6
  | .step22 => .sequencer 22#6
  | .step23 => .sequencer 23#6
  | .step24 => .sequencer 24#6
  | .step25 => .sequencer 25#6
  | .step26 => .sequencer 26#6
  | .step27 => .sequencer 27#6
  | .step28 => .sequencer 28#6
  | .step29 => .sequencer 29#6
  | .step30 => .sequencer 30#6
  | .step31 => .sequencer 31#6
  | .step32 => .sequencer 32#6
  | .step33 => .sequencer 33#6
  | .step34 => .sequencer 34#6
  | .step35 => .sequencer 35#6
  | .step36 => .sequencer 36#6
  | .step37 => .sequencer 37#6
  | .step38 => .sequencer 38#6
  | .step39 => .sequencer 39#6
  | .step40 => .sequencer 40#6
  | .step41 => .sequencer 41#6
  | .step42 => .sequencer 42#6
  | .step43 => .sequencer 43#6
  | .step44 => .sequencer 44#6
  | .step45 => .sequencer 45#6
  | .step46 => .sequencer 46#6
  | .step47 => .sequencer 47#6

/-- The instruction is one the host can issue (30_encoding.md R66); the others are the sequencer's steps (R74). -/
def Instr.isCommand (i : Instr) : Bool :=
  match encode i with
  | .packet _ => true
  | .sequencer _ => false

/-! The opcode table's numbering. A command row is matched on the header byte, a step row on the 6-bit sequencer value; the
two spaces overlap in the numbers 1 to 7 (log 9). -/

/-- The bits `w` of a command row as a packet, the bits it has above `nbits` zero: its length is the one R71 gives. -/
def tablePacket (nbits w : Nat) : Packet :=
  let q := Packet.ofNat nbits w
  match q.claimedLength with
  | some n => if nbits ≤ n then Packet.ofNat n q.bits.toNat else q
  | none => q

/-- The bits `w` of a step row: the sequencer value, with nothing above its six bits. -/
def tableStep (w : Nat) : Option Instr :=
  if w < 64 then decodeStep (BitVec.ofNat 6 w) else none

/-- The instruction of a table word: a word with room for a header is first read as a command packet, and one that is no
command is read as a sequencer value; a word of fewer than 8 bits is a sequencer value (log 9). -/
def decodeTableWord (nbits w : Nat) : Option Instr :=
  if nbits < 8 then tableStep w
  else match decode (tablePacket nbits w) with
    | .command i => some i
    | .illegal => tableStep w
    | .malformed => none

end Sys2Proof
end

