-- ==== Sys2Proof/Machine/State.lean ====
section
/-! DEFINITION. The engine's state (10_state.md), what the host presents to it and has received from it, the reasons a step
can stop, and the state after reset. -/

namespace Sys2Proof.Machine

/-- A buffer: the elements that have been written, by index, the indices strictly rising (20_memory.md R40). An index that
is not listed reads as a free value (log 4). MB is a buffer of bytes, so a list of `Host.Cell`; PB is a buffer of words. -/
abbrev Buffer (w : Nat) := List (Nat × BitVec w)

/-- The canonical form of a buffer: indices strictly rising. -/
abbrev Buffer.wf {w : Nat} (m : Buffer w) : Prop := (m.map Prod.fst).Pairwise (· < ·)

/-- The command that the compression in progress serves (41_compression.md, introduction: COMPRESS, or DIGEST). -/
inductive Caller where
  | compress
  | digest
deriving DecidableEq, Repr

/-- Waiting for a command, or inside a compression (60_exceptions.md R251; 10_state.md R27). The model's own field (log 5). -/
inductive Activity where
  | idle
  | compressing (c : Caller)
deriving DecidableEq, Repr

/-- What the host can do to the engine (70_reset_and_hazards.md R273). -/
inductive HostEvent where
  /-- Present a packet. -/
  | packet (p : Packet)
  /-- Present a packet and apply hardware reset before its command is done (R260). -/
  | packetCutByReset (p : Packet)
  /-- Apply hardware reset (R260). -/
  | hardwareReset
deriving DecidableEq, Repr

/-- The machine. Spec names: `regs` = A, B, C, D; `halted` = HALTED; `snap` = AA, BB, CC, DD; `mb`, `pb`, `len`, `wcnt` = MB,
PB, LEN, WCNT; `blk`, `t` = the sequencer. X[0..15] is a view of `pb` (R31). The other fields are the model's own: `params`
(log 1), `activity` (log 5), `inbox` and `outbox` (log 10), `epoch` (log 3). -/
structure State where
  params   : Params
  regs     : Regs
  halted   : Bool
  snap     : Regs
  mb       : Buffer 8
  pb       : Buffer 32
  len      : BitVec 64
  wcnt     : BitVec 32
  blk      : BitVec 28
  t        : BitVec 6
  activity : Activity
  inbox    : List HostEvent
  outbox   : List Packet
  epoch    : Nat
deriving DecidableEq, Repr

/-- Why the machine stops with a fault. The spec's own faults CAPACITY, ALIGN, ILLEGAL and HALTED are none of these: the
machine takes them and goes on (60_exceptions.md R230). -/
inductive Fault where
  /-- Raised by `step` when a compression is in progress and the sequencer holds `t[5:4] = 3`, which "never occurs"
  (30_encoding.md R74). Safe: no run reaches it (log 11). -/
  | sequencerOutOfRange
deriving DecidableEq, Repr

/-- Why the machine gives no meaning. -/
inductive Refusal where
  /-- Raised by `exec` for an instruction without a meaning. No arm raises it. Safe. -/
  | notModelled (mnemonic : String)
  /-- Raised by `step` for a bit vector that is not a command packet: "A model must refuse it (give it no meaning)"
  (30_encoding.md R72). Safe (log 8). -/
  | malformedPacket
deriving DecidableEq, Repr

/-- The outcome of an instruction or a step. -/
abbrev Out := Host.Outcome State Fault Refusal

/-- The machine after hardware reset (10_state.md R25, R28, R35; 70_reset_and_hazards.md R260). The values of `snap`, `len`,
`wcnt`, `blk`, `t` are DESIGN CHOICES (log 2), so are `params` (log 1) and `epoch` (log 3). -/
def State.reset : State where
  params   := Config.largest
  regs     := Config.iv
  halted   := false
  snap     := { a := 0#32, b := 0#32, c := 0#32, d := 0#32 }
  mb       := []
  pb       := []
  len      := 0#64
  wcnt     := 0#32
  blk      := 0#28
  t        := 0#6
  activity := .idle
  inbox    := []
  outbox   := []
  epoch    := 0

end Sys2Proof.Machine
end

