-- ==== Sys2Proof/Machine/Operands.lean ====
section
/-! DEFINITION. The word operations of the data path (00_scope.md R11), the byte orders (20_memory.md R45 to R48), the
padding quantities (40_framing.md R91), and digest formatting (42_digest_format.md R192). -/

namespace Sys2Proof.Machine

/-- `rotl32(v, s)`, for `1 <= s <= 31` (R11). -/
def rotl32 (v : Word) (s : Nat) : Word := (v <<< s) ||| (v >>> (32 - s))

/-- `F(x,y,z) = (x AND y) OR (NOT x AND z)` (R11, R116). -/
def fnF (x y z : Word) : Word := (x &&& y) ||| (~~~x &&& z)

/-- `G(x,y,z) = (x AND y) OR (x AND z) OR (y AND z)` (R11, R117). -/
def fnG (x y z : Word) : Word := (x &&& y) ||| (x &&& z) ||| (y &&& z)

/-- `H(x,y,z) = x XOR y XOR z` (R11, R118). -/
def fnH (x y z : Word) : Word := x ^^^ y ^^^ z

/-- Byte `i` of a word, bits `[8i+7 : 8i]`. -/
def byteOf (v : Word) (i : Nat) : Byte := v.extractLsb' (8 * i) 8

/-- `be32`: the first byte most significant (R11). -/
def be32 (b0 b1 b2 b3 : Byte) : Word := b0 ++ b1 ++ b2 ++ b3

/-- `le32`: the first byte least significant (R11). -/
def le32 (b0 b1 b2 b3 : Byte) : Word := b3 ++ b2 ++ b1 ++ b0

/-- `bswap32(v) = v[7:0] || v[15:8] || v[23:16] || v[31:24]` (R11). -/
def bswap32 (v : Word) : Word := byteOf v 0 ++ byteOf v 1 ++ byteOf v 2 ++ byteOf v 3

/-- `lo32(n) = n mod 2^32` (R11). -/
def lo32 (n : BitVec 64) : Word := n.extractLsb' 0 32

/-- `hi32(n) = (n div 2^32) mod 2^32` (R11). -/
def hi32 (n : BitVec 64) : Word := n.extractLsb' 32 32

/-- The additive constant of round 1: none, which is adding zero (R116, R125). -/
def round1Constant : Word := 0x00000000#32

/-- The additive constant of round 2 (R7, R117). -/
def round2Constant : Word := 0x5A827999#32

/-- The additive constant of round 3 (R7, R118). -/
def round3Constant : Word := 0x6ED9EBA1#32

/-- `a <- rotl32(a + f(b,c,d) + X[k] + K, s)`: the value a step writes (R111). -/
def stepValue (f : Word → Word → Word → Word) (a b c d x k : Word) (s : Nat) : Word :=
  rotl32 (a + f b c d + x + k) s

/-- Reading a working register by name (R12). -/
def readReg (r : Regs) : Reg → Word
  | .A => r.a
  | .B => r.b
  | .C => r.c
  | .D => r.d

/-- Writing a working register by name (R12); the other three are unchanged. -/
def writeReg (r : Regs) (n : Reg) (v : Word) : Regs :=
  match n with
  | .A => { r with a := v }
  | .B => { r with b := v }
  | .C => { r with c := v }
  | .D => { r with d := v }

/-- `+32`, register by register: the feed-forward (R119). -/
def addRegs (r q : Regs) : Regs := { a := r.a + q.a, b := r.b + q.b, c := r.c + q.c, d := r.d + q.d }

/-- `k = (55 - L) mod 64`, the number of zero bytes (R91). -/
def zeroCount (L : Nat) : Nat := if L % 64 ≤ 55 then 55 - L % 64 else 119 - L % 64

/-- `N = (L + 8) div 64 + 1`, the number of blocks (R91). -/
def blockCount (L : Nat) : Nat := (L + 8) / 64 + 1

/-- `Lp = L + 1 + k`, the length of the padded byte string before the length field (R93). -/
def paddedLength (L : Nat) : Nat := L + 1 + zeroCount L

/-- `bits = 8*L`, the 64-bit length field (R95). -/
def bitLength (L : Nat) : BitVec 64 := BitVec.ofNat 64 (8 * L)

/-- The four bytes of a register in the digest, least significant first (R192). -/
def wordBytes (v : Word) : List Byte := [byteOf v 0, byteOf v 1, byteOf v 2, byteOf v 3]

/-- `format(A,B,C,D)`, the 16 digest bytes (R192). -/
def formatDigest (r : Regs) : List Byte := wordBytes r.a ++ wordBytes r.b ++ wordBytes r.c ++ wordBytes r.d

end Sys2Proof.Machine
end

