-- ==== Sys2Proof/Machine/Flags.lean ====
section
/-! DEFINITION. The one flag, HALTED (10_state.md R28), the statuses of a response (30_encoding.md R68) and the tests that
choose them (60_exceptions.md R231 to R238). There are no arithmetic flags (R28). -/

namespace Sys2Proof.Machine

/-- The four faults of R68 and R236, reported in the status field. -/
inductive FaultCode where
  | capacity
  | align
  | illegal
  | halted
deriving DecidableEq, Repr

/-- The 4-bit status of a fault (R68). -/
def FaultCode.status : FaultCode → Nat
  | .capacity => 1
  | .align => 2
  | .illegal => 3
  | .halted => 4

/-- The value of HALTED after a fault: ALIGN sets it, nothing else writes it (R28, R233, R236). -/
def haltedAfter (f : FaultCode) (h : Bool) : Bool :=
  match f with
  | .align => true
  | .capacity => h
  | .illegal => h
  | .halted => h

/-- The capacity test of PAD and DIGEST: `L > MSG_CAP` or `16*N > PB_CAP` (R92, R216, R231). -/
def messageTooLong (p : Params) (L : Nat) : Bool :=
  decide (p.msgCap < L) || decide (p.pbCap < 16 * blockCount L)

/-- The capacity test of COMPRESS: `Wn > PB_CAP` (R112, R231). -/
def wordsTooMany (p : Params) (n : Nat) : Bool := decide (p.pbCap < n)

/-- The alignment test of COMPRESS: `Wn mod 16 != 0` (R112, R233). -/
def misaligned (n : Nat) : Bool := decide (n % 16 ≠ 0)

/-- The first fault PAD and DIGEST meet, in the order of R238. -/
def messageFault (s : State) (L : Nat) : Option FaultCode :=
  if s.halted then some .halted
  else if messageTooLong s.params L then some .capacity
  else none

/-- The first fault COMPRESS meets, in the order of R238. -/
def wordsFault (s : State) (n : Nat) : Option FaultCode :=
  if s.halted then some .halted
  else if wordsTooMany s.params n then some .capacity
  else if misaligned n then some .align
  else none

/-- The only fault of FORMAT, SET_STATE, RESET_IV and GET_STATE (R235, R236). -/
def accessFault (s : State) : Option FaultCode :=
  if s.halted then some .halted else none

end Sys2Proof.Machine
end

