-- ==== Sys2Proof/Machine/Ops.lean ====
section
/-! DEFINITION. The shared operations: buffers (20_memory.md), responses (30_encoding.md R67 to R69), taking a fault
(60_exceptions.md R230 to R239), hardware reset (70_reset_and_hazards.md R260), the end of a command, and the parts of a
block (41_compression.md R111 to R119). -/

namespace Sys2Proof.Machine

/-! ## Buffers -/

/-- The element listed at index `i`, if any. -/
def Buffer.find {w : Nat} : Buffer w → Nat → Option (BitVec w)
  | [], _ => none
  | (j, v) :: m, i => if i = j then some v else Buffer.find m i

/-- Writing the element at index `i`; the canonical form is kept (`Buffer.write_wf`). -/
def Buffer.write {w : Nat} : Buffer w → Nat → BitVec w → Buffer w
  | [], i, v => [(i, v)]
  | (j, u) :: m, i, v =>
    if i < j then (i, v) :: (j, u) :: m
    else if i = j then (i, v) :: m
    else (j, u) :: Buffer.write m i v

/-- Writing elements at the indices `i`, `i + 1`, … in order. -/
def Buffer.fill {w : Nat} : Buffer w → Nat → List (BitVec w) → Buffer w
  | m, _, [] => m
  | m, i, v :: vs => Buffer.fill (Buffer.write m i v) (i + 1) vs

/-- `MemRead(MB, i, 1)` (R12): what is listed, or a free value (log 4). -/
def State.readMB (s : State) (i : Nat) : Byte := (Buffer.find s.mb i).getD (Config.freeByte s.epoch i)

/-- `MemRead(PB, j, 1)` (R12): what is listed, or a free value (log 4). -/
def State.readPB (s : State) (j : Nat) : Word := (Buffer.find s.pb j).getD (Config.freeWord s.epoch j)

/-- Filling MB: `LEN <- L ; MB[i] <- msg[i]` (R41). Elements at `L` and above are unspecified (R33, R44). -/
def State.receive (s : State) (msg : List Byte) : State :=
  { s with len := BitVec.ofNat 64 msg.length, mb := Buffer.fill [] 0 msg }

/-- Filling PB with `n` words and `WCNT <- n` (R42, R43). Elements at `n` and above are unspecified (R33, R44). -/
def State.load (s : State) (words : List Word) : State :=
  { s with wcnt := BitVec.ofNat 32 words.length, pb := Buffer.fill [] 0 words }

/-- `PB[0], PB[1], ..., PB[WCNT-1]` (R92). -/
def State.storedWords (s : State) : List Word := (List.range s.wcnt.toNat).map s.readPB

/-- `X[k]`, a view of PB: `PB[16*blk + k]` (R31, R114). -/
def State.blockWord (s : State) (k : Nat) : Word := s.readPB (16 * s.blk.toNat + k)

/-! ## Responses -/

/-- The payload of an OK response (R69). -/
inductive Payload where
  | empty
  | state (r : Regs)
  | digest (g : List Byte)
  | words (ws : List Word)
deriving DecidableEq, Repr

/-- The response with status OK, `0x0`, and its payload (R67, R68, R69). -/
def okResponse : Payload → Packet
  | .empty => Packet.ofNat 8 0
  | .state r => Packet.ofNat 136 (2 ^ 8 * packFields [r.a, r.b, r.c, r.d])
  | .digest g => Packet.ofNat 136 (2 ^ 8 * packFields g)
  | .words ws => Packet.ofNat (40 + 32 * ws.length) (2 ^ 8 * ws.length + 2 ^ 40 * packFields ws)

/-- The response of a fault: the 8-bit header alone (R68, R69). -/
def faultResponse (f : FaultCode) : Packet := Packet.ofNat 8 f.status

/-- Delivering a response (R60, R67). -/
def State.deliver (s : State) (rsp : Packet) : State := { s with outbox := s.outbox ++ [rsp] }

/-- `respond(OK, payload)` (R12). -/
def State.respond (s : State) (p : Payload) : State := s.deliver (okResponse p)

/-- Taking a fault: `raise <Fault>` (R12). "Entry consists of (a) the write of rule R233 if the fault is ALIGN, (b) the
response" (R239); nothing is saved and nothing else is written (R230, R237). There is no return (R241): the host's next command
follows, or, after ALIGN, hardware reset. -/
def State.raise (s : State) (f : FaultCode) : State :=
  { s with halted := haltedAfter f s.halted, outbox := s.outbox ++ [faultResponse f] }

/-- Answering a packet with a reserved header: HALTED when halted, else ILLEGAL (R71, R232, R235, R238). -/
def State.answerIllegal (s : State) : State := s.raise (if s.halted then .halted else .illegal)

/-! ## The end of a command, and hardware reset -/

/-- The snapshot registers between commands: free values (R30, log 3). -/
def freeSnapshot (e : Nat) : Regs :=
  { a := Config.freeSnap e 0, b := Config.freeSnap e 1, c := Config.freeSnap e 2, d := Config.freeSnap e 3 }

/-- The end of a command that used transient state: from here on it is unspecified (R21, R30, R32, R33), so each piece
takes a free value, drawn with the next epoch (log 3); no command is in progress. A, B, C, D and HALTED stay (R26). -/
def State.release (s : State) : State :=
  { s with
    snap     := freeSnapshot (s.epoch + 1)
    mb       := []
    pb       := []
    len      := Config.freeLen (s.epoch + 1)
    wcnt     := Config.freeWcnt (s.epoch + 1)
    blk      := Config.freeBlk (s.epoch + 1)
    t        := Config.freeT (s.epoch + 1)
    activity := .idle
    epoch    := s.epoch + 1 }

/-- Hardware reset (R260): the reset state, no command in progress, no response. The configuration and what passes between
host and engine stay; the buffers read new free values (R35, log 7). -/
def State.hardwareReset (s : State) : State :=
  { State.reset with params := s.params, inbox := s.inbox, outbox := s.outbox, epoch := s.epoch + 1 }

/-! ## Registers and the parts of a block -/

/-- Writing A, B, C and D, all four at once (R24). -/
def State.setRegs (s : State) (r : Regs) : State := { s with regs := r }

/-- The start of a block: `AA <- A ; BB <- B ; CC <- C ; DD <- D` (R115), and `t` at 0 (R27). -/
def State.startBlock (s : State) : State := { s with snap := s.regs, t := 0#6 }

/-- The end of a block: `A <- A +32 AA ; ...` (R119), and `blk <- blk + 1` (R27). -/
def State.feedForward (s : State) : State :=
  { s with regs := addRegs s.regs s.snap, blk := s.blk + 1#28 }

/-- One step in the general form of R111: the register in role `ra` is written with the sum rotated by `sh`, and the
sequencer moves to `tNext` (R27). The old value of `ra` is read; `rb`, `rc`, `rd` are read only (R13, R123). -/
def State.roundStep (s : State) (ra rb rc rd : Reg) (f : Word → Word → Word → Word) (k : Nat) (K : Word) (sh : Nat)
    (tNext : BitVec 6) : State :=
  { s with
    regs := writeReg s.regs ra
      (stepValue f (readReg s.regs ra) (readReg s.regs rb) (readReg s.regs rc) (readReg s.regs rd) (s.blockWord k) K sh)
    t := tNext }

/-- `N = WCNT / 16`, the number of blocks of a compression (R113). -/
def State.blocks (s : State) : Nat := s.wcnt.toNat / 16

end Sys2Proof.Machine
end

