-- ==== Sys2Proof/Machine/Accessors.lean ====
section
/-! DEFINITION. The state accessors SET_STATE, RESET_IV and GET_STATE (43_state_access.md). -/

namespace Sys2Proof.Machine

/-- R202: the meaning of SET_STATE. -/
def execSetState (a b c d : Word) (s : State) : Out :=
  match accessFault s with
  | some f => .next (s.raise f)
  | none => .next ((s.setRegs { a := a, b := b, c := c, d := d }).respond .empty)

/-- R200: the meaning of RESET_IV. It does not clear HALTED (R261). -/
def execResetIv (s : State) : Out :=
  match accessFault s with
  | some f => .next (s.raise f)
  | none => .next ((s.setRegs Config.iv).respond .empty)

/-- R204: the meaning of GET_STATE. The values are returned raw. -/
def execGetState (s : State) : Out :=
  match accessFault s with
  | some f => .next (s.raise f)
  | none => .next (s.respond (.state s.regs))

end Sys2Proof.Machine
end

