-- ==== Sys2Proof/Machine/Steps.lean ====
section
/-! DEFINITION. The 48 steps, one meaning each (41_compression.md R130 to R177). `step<NN>` is the register update, which the
block loop also runs; `execStep<NN>` is the instruction's meaning. No step faults (R234). -/

namespace Sys2Proof.Machine

/-- R130, STEP 0: `A <- rotl32(A + F(B,C,D) + X[0], 3)`, then `t <- 1`. -/
def step00 (s : State) : State := s.roundStep .A .B .C .D fnF 0 round1Constant 3 1#6

/-- R130: the meaning of STEP 0. -/
def execStep00 (s : State) : Out := .next (step00 s)

/-- R131, STEP 1: `D <- rotl32(D + F(A,B,C) + X[1], 7)`, then `t <- 2`. -/
def step01 (s : State) : State := s.roundStep .D .A .B .C fnF 1 round1Constant 7 2#6

/-- R131: the meaning of STEP 1. -/
def execStep01 (s : State) : Out := .next (step01 s)

/-- R132, STEP 2: `C <- rotl32(C + F(D,A,B) + X[2], 11)`, then `t <- 3`. -/
def step02 (s : State) : State := s.roundStep .C .D .A .B fnF 2 round1Constant 11 3#6

/-- R132: the meaning of STEP 2. -/
def execStep02 (s : State) : Out := .next (step02 s)

/-- R133, STEP 3: `B <- rotl32(B + F(C,D,A) + X[3], 19)`, then `t <- 4`. -/
def step03 (s : State) : State := s.roundStep .B .C .D .A fnF 3 round1Constant 19 4#6

/-- R133: the meaning of STEP 3. -/
def execStep03 (s : State) : Out := .next (step03 s)

/-- R134, STEP 4: `A <- rotl32(A + F(B,C,D) + X[4], 3)`, then `t <- 5`. -/
def step04 (s : State) : State := s.roundStep .A .B .C .D fnF 4 round1Constant 3 5#6

/-- R134: the meaning of STEP 4. -/
def execStep04 (s : State) : Out := .next (step04 s)

/-- R135, STEP 5: `D <- rotl32(D + F(A,B,C) + X[5], 7)`, then `t <- 6`. -/
def step05 (s : State) : State := s.roundStep .D .A .B .C fnF 5 round1Constant 7 6#6

/-- R135: the meaning of STEP 5. -/
def execStep05 (s : State) : Out := .next (step05 s)

/-- R136, STEP 6: `C <- rotl32(C + F(D,A,B) + X[6], 11)`, then `t <- 7`. -/
def step06 (s : State) : State := s.roundStep .C .D .A .B fnF 6 round1Constant 11 7#6

/-- R136: the meaning of STEP 6. -/
def execStep06 (s : State) : Out := .next (step06 s)

/-- R137, STEP 7: `B <- rotl32(B + F(C,D,A) + X[7], 19)`, then `t <- 8`. -/
def step07 (s : State) : State := s.roundStep .B .C .D .A fnF 7 round1Constant 19 8#6

/-- R137: the meaning of STEP 7. -/
def execStep07 (s : State) : Out := .next (step07 s)

/-- R138, STEP 8: `A <- rotl32(A + F(B,C,D) + X[8], 3)`, then `t <- 9`. -/
def step08 (s : State) : State := s.roundStep .A .B .C .D fnF 8 round1Constant 3 9#6

/-- R138: the meaning of STEP 8. -/
def execStep08 (s : State) : Out := .next (step08 s)

/-- R139, STEP 9: `D <- rotl32(D + F(A,B,C) + X[9], 7)`, then `t <- 10`. -/
def step09 (s : State) : State := s.roundStep .D .A .B .C fnF 9 round1Constant 7 10#6

/-- R139: the meaning of STEP 9. -/
def execStep09 (s : State) : Out := .next (step09 s)

/-- R140, STEP 10: `C <- rotl32(C + F(D,A,B) + X[10], 11)`, then `t <- 11`. -/
def step10 (s : State) : State := s.roundStep .C .D .A .B fnF 10 round1Constant 11 11#6

/-- R140: the meaning of STEP 10. -/
def execStep10 (s : State) : Out := .next (step10 s)

/-- R141, STEP 11: `B <- rotl32(B + F(C,D,A) + X[11], 19)`, then `t <- 12`. -/
def step11 (s : State) : State := s.roundStep .B .C .D .A fnF 11 round1Constant 19 12#6

/-- R141: the meaning of STEP 11. -/
def execStep11 (s : State) : Out := .next (step11 s)

/-- R142, STEP 12: `A <- rotl32(A + F(B,C,D) + X[12], 3)`, then `t <- 13`. -/
def step12 (s : State) : State := s.roundStep .A .B .C .D fnF 12 round1Constant 3 13#6

/-- R142: the meaning of STEP 12. -/
def execStep12 (s : State) : Out := .next (step12 s)

/-- R143, STEP 13: `D <- rotl32(D + F(A,B,C) + X[13], 7)`, then `t <- 14`. -/
def step13 (s : State) : State := s.roundStep .D .A .B .C fnF 13 round1Constant 7 14#6

/-- R143: the meaning of STEP 13. -/
def execStep13 (s : State) : Out := .next (step13 s)

/-- R144, STEP 14: `C <- rotl32(C + F(D,A,B) + X[14], 11)`, then `t <- 15`. -/
def step14 (s : State) : State := s.roundStep .C .D .A .B fnF 14 round1Constant 11 15#6

/-- R144: the meaning of STEP 14. -/
def execStep14 (s : State) : Out := .next (step14 s)

/-- R145, STEP 15: `B <- rotl32(B + F(C,D,A) + X[15], 19)`, then `t <- 16`. -/
def step15 (s : State) : State := s.roundStep .B .C .D .A fnF 15 round1Constant 19 16#6

/-- R145: the meaning of STEP 15. -/
def execStep15 (s : State) : Out := .next (step15 s)

/-- R146, STEP 16: `A <- rotl32(A + G(B,C,D) + X[0] + 0x5A827999, 3)`, then `t <- 17`. -/
def step16 (s : State) : State := s.roundStep .A .B .C .D fnG 0 round2Constant 3 17#6

/-- R146: the meaning of STEP 16. -/
def execStep16 (s : State) : Out := .next (step16 s)

/-- R147, STEP 17: `D <- rotl32(D + G(A,B,C) + X[4] + 0x5A827999, 5)`, then `t <- 18`. -/
def step17 (s : State) : State := s.roundStep .D .A .B .C fnG 4 round2Constant 5 18#6

/-- R147: the meaning of STEP 17. -/
def execStep17 (s : State) : Out := .next (step17 s)

/-- R148, STEP 18: `C <- rotl32(C + G(D,A,B) + X[8] + 0x5A827999, 9)`, then `t <- 19`. -/
def step18 (s : State) : State := s.roundStep .C .D .A .B fnG 8 round2Constant 9 19#6

/-- R148: the meaning of STEP 18. -/
def execStep18 (s : State) : Out := .next (step18 s)

/-- R149, STEP 19: `B <- rotl32(B + G(C,D,A) + X[12] + 0x5A827999, 13)`, then `t <- 20`. -/
def step19 (s : State) : State := s.roundStep .B .C .D .A fnG 12 round2Constant 13 20#6

/-- R149: the meaning of STEP 19. -/
def execStep19 (s : State) : Out := .next (step19 s)

/-- R150, STEP 20: `A <- rotl32(A + G(B,C,D) + X[1] + 0x5A827999, 3)`, then `t <- 21`. -/
def step20 (s : State) : State := s.roundStep .A .B .C .D fnG 1 round2Constant 3 21#6

/-- R150: the meaning of STEP 20. -/
def execStep20 (s : State) : Out := .next (step20 s)

/-- R151, STEP 21: `D <- rotl32(D + G(A,B,C) + X[5] + 0x5A827999, 5)`, then `t <- 22`. -/
def step21 (s : State) : State := s.roundStep .D .A .B .C fnG 5 round2Constant 5 22#6

/-- R151: the meaning of STEP 21. -/
def execStep21 (s : State) : Out := .next (step21 s)

/-- R152, STEP 22: `C <- rotl32(C + G(D,A,B) + X[9] + 0x5A827999, 9)`, then `t <- 23`. -/
def step22 (s : State) : State := s.roundStep .C .D .A .B fnG 9 round2Constant 9 23#6

/-- R152: the meaning of STEP 22. -/
def execStep22 (s : State) : Out := .next (step22 s)

/-- R153, STEP 23: `B <- rotl32(B + G(C,D,A) + X[13] + 0x5A827999, 13)`, then `t <- 24`. -/
def step23 (s : State) : State := s.roundStep .B .C .D .A fnG 13 round2Constant 13 24#6

/-- R153: the meaning of STEP 23. -/
def execStep23 (s : State) : Out := .next (step23 s)

/-- R154, STEP 24: `A <- rotl32(A + G(B,C,D) + X[2] + 0x5A827999, 3)`, then `t <- 25`. -/
def step24 (s : State) : State := s.roundStep .A .B .C .D fnG 2 round2Constant 3 25#6

/-- R154: the meaning of STEP 24. -/
def execStep24 (s : State) : Out := .next (step24 s)

/-- R155, STEP 25: `D <- rotl32(D + G(A,B,C) + X[6] + 0x5A827999, 5)`, then `t <- 26`. -/
def step25 (s : State) : State := s.roundStep .D .A .B .C fnG 6 round2Constant 5 26#6

/-- R155: the meaning of STEP 25. -/
def execStep25 (s : State) : Out := .next (step25 s)

/-- R156, STEP 26: `C <- rotl32(C + G(D,A,B) + X[10] + 0x5A827999, 9)`, then `t <- 27`. -/
def step26 (s : State) : State := s.roundStep .C .D .A .B fnG 10 round2Constant 9 27#6

/-- R156: the meaning of STEP 26. -/
def execStep26 (s : State) : Out := .next (step26 s)

/-- R157, STEP 27: `B <- rotl32(B + G(C,D,A) + X[14] + 0x5A827999, 13)`, then `t <- 28`. -/
def step27 (s : State) : State := s.roundStep .B .C .D .A fnG 14 round2Constant 13 28#6

/-- R157: the meaning of STEP 27. -/
def execStep27 (s : State) : Out := .next (step27 s)

/-- R158, STEP 28: `A <- rotl32(A + G(B,C,D) + X[3] + 0x5A827999, 3)`, then `t <- 29`. -/
def step28 (s : State) : State := s.roundStep .A .B .C .D fnG 3 round2Constant 3 29#6

/-- R158: the meaning of STEP 28. -/
def execStep28 (s : State) : Out := .next (step28 s)

/-- R159, STEP 29: `D <- rotl32(D + G(A,B,C) + X[7] + 0x5A827999, 5)`, then `t <- 30`. -/
def step29 (s : State) : State := s.roundStep .D .A .B .C fnG 7 round2Constant 5 30#6

/-- R159: the meaning of STEP 29. -/
def execStep29 (s : State) : Out := .next (step29 s)

/-- R160, STEP 30: `C <- rotl32(C + G(D,A,B) + X[11] + 0x5A827999, 9)`, then `t <- 31`. -/
def step30 (s : State) : State := s.roundStep .C .D .A .B fnG 11 round2Constant 9 31#6

/-- R160: the meaning of STEP 30. -/
def execStep30 (s : State) : Out := .next (step30 s)

/-- R161, STEP 31: `B <- rotl32(B + G(C,D,A) + X[15] + 0x5A827999, 13)`, then `t <- 32`. -/
def step31 (s : State) : State := s.roundStep .B .C .D .A fnG 15 round2Constant 13 32#6

/-- R161: the meaning of STEP 31. -/
def execStep31 (s : State) : Out := .next (step31 s)

/-- R162, STEP 32: `A <- rotl32(A + H(B,C,D) + X[0] + 0x6ED9EBA1, 3)`, then `t <- 33`. -/
def step32 (s : State) : State := s.roundStep .A .B .C .D fnH 0 round3Constant 3 33#6

/-- R162: the meaning of STEP 32. -/
def execStep32 (s : State) : Out := .next (step32 s)

/-- R163, STEP 33: `D <- rotl32(D + H(A,B,C) + X[8] + 0x6ED9EBA1, 9)`, then `t <- 34`. -/
def step33 (s : State) : State := s.roundStep .D .A .B .C fnH 8 round3Constant 9 34#6

/-- R163: the meaning of STEP 33. -/
def execStep33 (s : State) : Out := .next (step33 s)

/-- R164, STEP 34: `C <- rotl32(C + H(D,A,B) + X[4] + 0x6ED9EBA1, 11)`, then `t <- 35`. -/
def step34 (s : State) : State := s.roundStep .C .D .A .B fnH 4 round3Constant 11 35#6

/-- R164: the meaning of STEP 34. -/
def execStep34 (s : State) : Out := .next (step34 s)

/-- R165, STEP 35: `B <- rotl32(B + H(C,D,A) + X[12] + 0x6ED9EBA1, 15)`, then `t <- 36`. -/
def step35 (s : State) : State := s.roundStep .B .C .D .A fnH 12 round3Constant 15 36#6

/-- R165: the meaning of STEP 35. -/
def execStep35 (s : State) : Out := .next (step35 s)

/-- R166, STEP 36: `A <- rotl32(A + H(B,C,D) + X[2] + 0x6ED9EBA1, 3)`, then `t <- 37`. -/
def step36 (s : State) : State := s.roundStep .A .B .C .D fnH 2 round3Constant 3 37#6

/-- R166: the meaning of STEP 36. -/
def execStep36 (s : State) : Out := .next (step36 s)

/-- R167, STEP 37: `D <- rotl32(D + H(A,B,C) + X[10] + 0x6ED9EBA1, 9)`, then `t <- 38`. -/
def step37 (s : State) : State := s.roundStep .D .A .B .C fnH 10 round3Constant 9 38#6

/-- R167: the meaning of STEP 37. -/
def execStep37 (s : State) : Out := .next (step37 s)

/-- R168, STEP 38: `C <- rotl32(C + H(D,A,B) + X[6] + 0x6ED9EBA1, 11)`, then `t <- 39`. -/
def step38 (s : State) : State := s.roundStep .C .D .A .B fnH 6 round3Constant 11 39#6

/-- R168: the meaning of STEP 38. -/
def execStep38 (s : State) : Out := .next (step38 s)

/-- R169, STEP 39: `B <- rotl32(B + H(C,D,A) + X[14] + 0x6ED9EBA1, 15)`, then `t <- 40`. -/
def step39 (s : State) : State := s.roundStep .B .C .D .A fnH 14 round3Constant 15 40#6

/-- R169: the meaning of STEP 39. -/
def execStep39 (s : State) : Out := .next (step39 s)

/-- R170, STEP 40: `A <- rotl32(A + H(B,C,D) + X[1] + 0x6ED9EBA1, 3)`, then `t <- 41`. -/
def step40 (s : State) : State := s.roundStep .A .B .C .D fnH 1 round3Constant 3 41#6

/-- R170: the meaning of STEP 40. -/
def execStep40 (s : State) : Out := .next (step40 s)

/-- R171, STEP 41: `D <- rotl32(D + H(A,B,C) + X[9] + 0x6ED9EBA1, 9)`, then `t <- 42`. -/
def step41 (s : State) : State := s.roundStep .D .A .B .C fnH 9 round3Constant 9 42#6

/-- R171: the meaning of STEP 41. -/
def execStep41 (s : State) : Out := .next (step41 s)

/-- R172, STEP 42: `C <- rotl32(C + H(D,A,B) + X[5] + 0x6ED9EBA1, 11)`, then `t <- 43`. -/
def step42 (s : State) : State := s.roundStep .C .D .A .B fnH 5 round3Constant 11 43#6

/-- R172: the meaning of STEP 42. -/
def execStep42 (s : State) : Out := .next (step42 s)

/-- R173, STEP 43: `B <- rotl32(B + H(C,D,A) + X[13] + 0x6ED9EBA1, 15)`, then `t <- 44`. -/
def step43 (s : State) : State := s.roundStep .B .C .D .A fnH 13 round3Constant 15 44#6

/-- R173: the meaning of STEP 43. -/
def execStep43 (s : State) : Out := .next (step43 s)

/-- R174, STEP 44: `A <- rotl32(A + H(B,C,D) + X[3] + 0x6ED9EBA1, 3)`, then `t <- 45`. -/
def step44 (s : State) : State := s.roundStep .A .B .C .D fnH 3 round3Constant 3 45#6

/-- R174: the meaning of STEP 44. -/
def execStep44 (s : State) : Out := .next (step44 s)

/-- R175, STEP 45: `D <- rotl32(D + H(A,B,C) + X[11] + 0x6ED9EBA1, 9)`, then `t <- 46`. -/
def step45 (s : State) : State := s.roundStep .D .A .B .C fnH 11 round3Constant 9 46#6

/-- R175: the meaning of STEP 45. -/
def execStep45 (s : State) : Out := .next (step45 s)

/-- R176, STEP 46: `C <- rotl32(C + H(D,A,B) + X[7] + 0x6ED9EBA1, 11)`, then `t <- 47`. -/
def step46 (s : State) : State := s.roundStep .C .D .A .B fnH 7 round3Constant 11 47#6

/-- R176: the meaning of STEP 46. -/
def execStep46 (s : State) : Out := .next (step46 s)

/-- R177, STEP 47: `B <- rotl32(B + H(C,D,A) + X[15] + 0x6ED9EBA1, 15)`, `t` is not advanced further. -/
def step47 (s : State) : State := s.roundStep .B .C .D .A fnH 15 round3Constant 15 s.t

/-- R177: the meaning of STEP 47. -/
def execStep47 (s : State) : Out := .next (step47 s)

/-- The 48 steps of a block in increasing `t` (R113, R124). -/
def stepSequence : List (State → State) :=
  [step00, step01, step02, step03, step04, step05, step06, step07,
   step08, step09, step10, step11, step12, step13, step14, step15,
   step16, step17, step18, step19, step20, step21, step22, step23,
   step24, step25, step26, step27, step28, step29, step30, step31,
   step32, step33, step34, step35, step36, step37, step38, step39,
   step40, step41, step42, step43, step44, step45, step46, step47]

end Sys2Proof.Machine
end

