-- ==== Sys2Proof/Machine/Compression.lean ====
section
/-! DEFINITION. The block loop and the command COMPRESS (41_compression.md R112 to R121). -/

namespace Sys2Proof.Machine

/-- The 48 steps of one block, in increasing `t` (R113). -/
def State.runSteps (s : State) : State := stepSequence.foldl (fun s step => step s) s

/-- One block: the snapshot (R115), the 48 steps, the feed-forward (R119). -/
def State.compressBlock (s : State) : State := s.startBlock.runSteps.feedForward

/-- `n` blocks in order, each from the state the one before left (R113, R120). -/
def State.compressBlocks (n : Nat) (s : State) : State := Nat.iterate State.compressBlock n s

/-- `compress_all()` (R113): the sequencer starts at block 0, and runs `N = WCNT / 16` blocks; none when `N = 0` (R121). -/
def State.compressAll (s : State) : State := State.compressBlocks s.blocks { s with blk := 0#28 }

/-- The end of COMPRESS: `respond(OK)` (R112). A to D stay (R26). -/
def State.finishCompress (s : State) : State := s.release.respond .empty

/-- R112: the meaning of COMPRESS. -/
def execCompress (words : List Word) (s : State) : Out :=
  match wordsFault s words.length with
  | some f => .next (s.raise f)
  | none => .next (s.load words).compressAll.finishCompress

end Sys2Proof.Machine
end

