-- ==== Sys2Proof/Machine/Framing.lean ====
section
/-! DEFINITION. Framing and the command PAD (40_framing.md). -/

namespace Sys2Proof.Machine

/-- `P[i]`, the padded byte string before the length field (R93). -/
def State.paddedByte (s : State) (i : Nat) : Byte :=
  if i < s.len.toNat then s.readMB i
  else if i = s.len.toNat then 0x80#8
  else 0x00#8

/-- `le32(P[4j], P[4j+1], P[4j+2], P[4j+3])` (R94). -/
def State.paddedWord (s : State) (j : Nat) : Word :=
  le32 (s.paddedByte (4 * j)) (s.paddedByte (4 * j + 1)) (s.paddedByte (4 * j + 2)) (s.paddedByte (4 * j + 3))

/-- The Padded Block Sequence of the message in MB: the words of R94, then the two length words of R95, low word first and
not byte-swapped (R47). -/
def State.framedWords (s : State) : List Word :=
  (List.range (paddedLength s.len.toNat / 4)).map s.paddedWord
    ++ [lo32 (bitLength s.len.toNat), hi32 (bitLength s.len.toNat)]

/-- `frame()` (R92): PB and WCNT from MB and LEN (R43, R94, R95, R96). -/
def State.frame (s : State) : State := s.load s.framedWords

/-- R92: the meaning of PAD. -/
def execPad (msg : List Byte) (s : State) : Out :=
  match messageFault s msg.length with
  | some f => .next (s.raise f)
  | none =>
    let framed := (s.receive msg).frame
    .next (framed.release.respond (.words framed.storedWords))

end Sys2Proof.Machine
end

