-- ==== Sys2Proof/Machine/Digest.lean ====
section
/-! DEFINITION. Digest formatting and the commands FORMAT (42_digest_format.md) and DIGEST (44_digest.md). -/

namespace Sys2Proof.Machine

/-- R191: the meaning of FORMAT. It writes no register and no transient state. -/
def execFormat (s : State) : Out :=
  match accessFault s with
  | some f => .next (s.raise f)
  | none => .next (s.respond (.digest (formatDigest s.regs)))

/-- The end of DIGEST: the digest bytes are taken from the registers, the registers go back to the IV, and the bytes are the
response (R216, R218). -/
def State.finishDigest (s : State) : State :=
  (s.setRegs Config.iv).release.respond (.digest (formatDigest s.regs))

/-- R216: the meaning of DIGEST. It starts from the current A, B, C, D (R217). -/
def execDigest (msg : List Byte) (s : State) : Out :=
  match messageFault s msg.length with
  | some f => .next (s.raise f)
  | none => .next (s.receive msg).frame.compressAll.finishDigest

end Sys2Proof.Machine
end

