-- ==== Sys2Proof/Machine/Fetch.lean ====
section
/-! DEFINITION. What the engine does next: the sequencer's step inside a compression, else the host's next event
(10_state.md R27; 20_memory.md R54; 70_reset_and_hazards.md R260, R273); and what follows a step. -/

namespace Sys2Proof.Machine

/-- What the next step of the machine is. -/
inductive Fetched where
  /-- No event is presented: the engine waits (R251, R260). -/
  | waiting
  /-- Hardware reset, in the state with the event taken (R260). -/
  | reset (s : State)
  /-- A packet with a reserved header, in the state with the packet taken (R73). -/
  | illegal (s : State)
  /-- Not a packet (R72). -/
  | malformed
  /-- A command, in the state with the packet taken (R60). -/
  | command (i : Instr) (s : State)
  /-- The sequencer's step, for the command the compression serves (R27). -/
  | step (c : Caller) (i : Instr)
  /-- The sequencer selects no step (R74: never occurs). -/
  | stuck
deriving DecidableEq, Repr

/-- The host's next event at an engine that is waiting (R54, R60, R71 to R73, R260). -/
def State.fetchEvent (s : State) : Fetched :=
  match s.inbox with
  | [] => .waiting
  | .hardwareReset :: rest => .reset { s with inbox := rest }
  | .packet p :: rest =>
    match decode p with
    | .command i => .command i { s with inbox := rest }
    | .illegal => .illegal { s with inbox := rest }
    | .malformed => .malformed
  | .packetCutByReset p :: rest =>
    match decode p with
    | .command _ => .reset { s with inbox := rest }
    | .illegal => .reset { s with inbox := rest }
    | .malformed => .malformed

/-- Inside a compression no packet is accepted (R54, R263), and hardware reset can come at any time (R260, R264). -/
def State.fetchStep (s : State) (c : Caller) : Fetched :=
  match s.inbox with
  | .hardwareReset :: rest => .reset { s with inbox := rest }
  | _ =>
    match decodeStep s.t with
    | some i => .step c i
    | none => .stuck

/-- What the engine does next. -/
def State.fetch (s : State) : Fetched :=
  match s.activity with
  | .idle => s.fetchEvent
  | .compressing c => s.fetchStep c

/-- The start of a compression, with PB filled: the sequencer at block 0, step 0, the snapshot taken (R27, R35, R115). -/
def State.beginCompression (s : State) (c : Caller) : State :=
  { s with activity := .compressing c, blk := 0#28 }.startBlock

/-- The end of a compression (R112, R216). -/
def State.finish (s : State) (c : Caller) : State :=
  match c with
  | .compress => s.finishCompress
  | .digest => s.finishDigest

/-- What follows the last step of a block: the feed-forward, then the next block, or the end of the command (R27, R113). -/
def State.endBlock (s : State) (c : Caller) : State :=
  let fed := s.feedForward
  if fed.blk.toNat < fed.blocks then fed.startBlock else fed.finish c

/-- What the sequencer adds to the step selected by `t`: nothing, but after step 47 (R27, R177). -/
def afterStep (c : Caller) (t : BitVec 6) (s : State) : State :=
  if t = 47#6 then s.endBlock c else s

/-- Placing a packet where the engine takes its next command: first in the host's stream, the engine waiting (log 10). -/
def State.presentPacket (s : State) (p : Packet) : State :=
  { s with activity := .idle, inbox := .packet p :: s.inbox }

/-- Placing a sequencer value where the engine takes its next step: in `t`, inside a compression, with no hardware reset
presented (log 10). -/
def State.presentStep (s : State) (t : BitVec 6) : State :=
  { s with activity := .compressing .compress, t := t,
           inbox := s.inbox.dropWhile (fun e => decide (e = .hardwareReset)) }

/-- Placing a table word where the engine fetches it from: a command packet in the stream, a step's value in the sequencer
(logs 9 and 10). Bits that are no instruction are presented as a packet. -/
def State.presentTableWord (s : State) (nbits w : Nat) : State :=
  if nbits < 8 then s.presentStep (BitVec.ofNat 6 w)
  else match decode (tablePacket nbits w) with
    | .command _ => s.presentPacket (tablePacket nbits w)
    | .malformed => s.presentPacket (tablePacket nbits w)
    | .illegal =>
      match tableStep w with
      | some _ => s.presentStep (BitVec.ofNat 6 w)
      | none => s.presentPacket (tablePacket nbits w)

end Sys2Proof.Machine
end

