-- ==== Sys2Proof/Machine/Step.lean ====
section
/-! DEFINITION. One step of the machine: one command as a whole (R54, R60, R264), one step of the sequencer when a compression is
in progress, or what the host's event does. -/

namespace Sys2Proof.Machine

/-- The outcome of a sequencer step, with what follows it. -/
def stepSequencer (c : Caller) (i : Instr) (s : State) : Host.Outcome State Fault Refusal :=
  match exec i s with
  | .next s' => .next (afterStep c s.t s')
  | .fault r => .fault r
  | .refused r => .refused r

/-- One step. -/
def step (s : State) : Host.Outcome State Fault Refusal :=
  match s.fetch with
  | .waiting => .next s
  | .reset s' => .next s'.hardwareReset
  | .illegal s' => .next s'.answerIllegal
  | .malformed => .refused .malformedPacket
  | .command i s' => exec i s'
  | .step c i => stepSequencer c i s
  | .stuck => .fault .sequencerOutOfRange

/-- `s` with the table word's instruction placed where `step` takes its next instruction (logs 9 and 10). -/
def State.withFetchWord (s : State) (nbits w : Nat) : State := s.presentTableWord nbits w

end Sys2Proof.Machine
end

