-- ==== Sys2Proof/Machine/Reference.lean ====
section
/-! DEFINITION. The algorithm as pure functions, table-driven, for statements: the padded message as one byte string
(40_framing.md R99), the lists of the three rounds (41_compression.md R116 to R118), the block function and the chain (R113,
R119, R120), and the inverse of formatting (42_digest_format.md R195). The machine does not call it. -/

namespace Sys2Proof.Machine

/-- `le32` of each four bytes, in order (R99). -/
def wordsOfBytes : List Byte → List Word
  | b0 :: b1 :: b2 :: b3 :: rest => le32 b0 b1 b2 b3 :: wordsOfBytes rest
  | _ => []

/-- `bytes_le64(n)`: the 8 bytes of `n`, least significant first (R99). -/
def bytesLe64 (n : BitVec 64) : List Byte := (List.range 8).map fun i => n.extractLsb' (8 * i) 8

/-- What framing appends to a message of `L` bytes: `0x80`, `k` zero bytes, the 8 bytes of `8*L` (R99; the glue padding of
44_digest.md R222). -/
def paddingOf (L : Nat) : List Byte := 0x80#8 :: List.replicate (zeroCount L) 0x00#8 ++ bytesLe64 (bitLength L)

/-- The padded message `S` as a byte string (R99). -/
def paddedMessage (msg : List Byte) : List Byte := msg ++ paddingOf msg.length

/-- The Padded Block Sequence: `PB[j] = le32(S[4j], S[4j+1], S[4j+2], S[4j+3])` (R99). -/
def paddedWords (msg : List Byte) : List Word := wordsOfBytes (paddedMessage msg)

/-- A row of the table of R125: the register roles, the round function, the word index, the shift, the constant. -/
structure StepRow where
  ra : Reg
  rb : Reg
  rc : Reg
  rd : Reg
  f  : Word → Word → Word → Word
  k  : Nat
  s  : Nat
  K  : Word

/-- The register quadruple of step `j` of a round: number `j mod 4` of the cyclic permutations (R116). -/
def rolesAt (j : Nat) : Reg × Reg × Reg × Reg :=
  match j % 4 with
  | 0 => (.A, .B, .C, .D)
  | 1 => (.D, .A, .B, .C)
  | 2 => (.C, .D, .A, .B)
  | _ => (.B, .C, .D, .A)

/-- The shift lists of the three rounds (R116, R117, R118). -/
def shiftList : Nat → List Nat
  | 0 => [3, 7, 11, 19]
  | 1 => [3, 5, 9, 13]
  | _ => [3, 9, 11, 15]

/-- The word index lists of the three rounds (R116, R117, R118). -/
def indexList : Nat → List Nat
  | 0 => [0, 1, 2, 3, 4, 5, 6, 7, 8, 9, 10, 11, 12, 13, 14, 15]
  | 1 => [0, 4, 8, 12, 1, 5, 9, 13, 2, 6, 10, 14, 3, 7, 11, 15]
  | _ => [0, 8, 4, 12, 2, 10, 6, 14, 1, 9, 5, 13, 3, 11, 7, 15]

/-- The functions of the three rounds (R116, R117, R118). -/
def roundFunction : Nat → Word → Word → Word → Word
  | 0 => fnF
  | 1 => fnG
  | _ => fnH

/-- The additive constants of the three rounds (R116, R117, R118). -/
def roundConstant : Nat → Word
  | 0 => 0x00000000#32
  | 1 => 0x5A827999#32
  | _ => 0x6ED9EBA1#32

/-- Row `t` of the table, from the lists of the three rounds: `t[5:4]` is the round, `t[3:0]` the step in it (R27, R74). -/
def stepRow (t : Nat) : StepRow :=
  let round := t / 16
  let j := t % 16
  let q := rolesAt j
  { ra := q.1, rb := q.2.1, rc := q.2.2.1, rd := q.2.2.2, f := roundFunction round,
    k := (indexList round).getD j 0, s := (shiftList round).getD (j % 4) 0, K := roundConstant round }

/-- One step by its row, on the registers alone (R111). -/
def applyRow (row : StepRow) (x : Nat → Word) (r : Regs) : Regs :=
  writeReg r row.ra
    (stepValue row.f (readReg r row.ra) (readReg r row.rb) (readReg r row.rc) (readReg r row.rd) (x row.k) row.K row.s)

/-- The compression function on one block (R113, R115, R119). -/
def blockFunction (r : Regs) (block : List Word) : Regs :=
  addRegs ((List.range 48).foldl (fun q t => applyRow (stepRow t) (fun k => block.getD k 0#32) q) r) r

/-- `n` blocks of the words in order (R113, R120). -/
def chainBlocks : Nat → Regs → List Word → Regs
  | 0, r, _ => r
  | n + 1, r, ws => chainBlocks n (blockFunction r (ws.take 16)) (ws.drop 16)

/-- The registers after compressing whole blocks of words (R110). -/
def chain (r : Regs) (ws : List Word) : Regs := chainBlocks (ws.length / 16) r ws

/-- The digest of a message from a given start state (R216, R217). -/
def digestFrom (r : Regs) (msg : List Byte) : List Byte := formatDigest (chain r (paddedWords msg))

/-- `MD4(m)`: the digest from the IV (R221). -/
def md4 (msg : List Byte) : List Byte := digestFrom Config.iv msg

/-- The registers that format to the digest bytes `g[0..15]` (R195). -/
def registersOfDigest (g : List Byte) : Regs :=
  { a := le32 (g.getD 0 0#8) (g.getD 1 0#8) (g.getD 2 0#8) (g.getD 3 0#8)
    b := le32 (g.getD 4 0#8) (g.getD 5 0#8) (g.getD 6 0#8) (g.getD 7 0#8)
    c := le32 (g.getD 8 0#8) (g.getD 9 0#8) (g.getD 10 0#8) (g.getD 11 0#8)
    d := le32 (g.getD 12 0#8) (g.getD 13 0#8) (g.getD 14 0#8) (g.getD 15 0#8) }

end Sys2Proof.Machine
end

