-- ==== Sys2Proof/Machine/Assembler.lean ====
section
/-! DEFINITION. The assembler's notation and the pseudo-instructions (30_encoding.md R75, R76). The engine never sees it: it
turns a line of text into commands. Lists of characters, so that it can be evaluated (log 14). -/

namespace Sys2Proof.Machine

/-! ## Pseudo-instructions (R76) -/

/-- `MD4 <bytes>`. -/
def expandMd4 (msg : List Byte) : List Instr := [.resetIv, .digest msg]

/-- `LOAD_DIGEST hex:<32 digits>`. -/
def expandLoadDigest (g : List Byte) : Option (List Instr) :=
  if g.length = 16 then
    let r := registersOfDigest g
    some [.setState r.a r.b r.c r.d]
  else none

/-- `COMPRESS_BYTES hex:<digits>`, a byte string whose length is a multiple of 4. -/
def expandCompressBytes (p : List Byte) : Option (List Instr) :=
  if p.length % 4 = 0 then some [.compress (wordsOfBytes p)] else none

/-! ## Operands (R75) -/

/-- The value of a hexadecimal digit. -/
def hexDigit (c : Char) : Option Nat :=
  if '0' ≤ c ∧ c ≤ '9' then some (c.toNat - '0'.toNat)
  else if 'a' ≤ c ∧ c ≤ 'f' then some (c.toNat - 'a'.toNat + 10)
  else if 'A' ≤ c ∧ c ≤ 'F' then some (c.toNat - 'A'.toNat + 10)
  else none

/-- An even number of hexadecimal digits in byte order. -/
def hexBytes : List Char → Option (List Byte)
  | [] => some []
  | h :: l :: rest => do
    let hi ← hexDigit h
    let lo ← hexDigit l
    let bs ← hexBytes rest
    return BitVec.ofNat 8 (16 * hi + lo) :: bs
  | [_] => none

/-- An ASCII string up to its closing quote, which ends the operand: each character one byte. -/
def quotedBytes : List Char → Option (List Byte)
  | [] => none
  | ['"'] => some []
  | c :: rest =>
    if c = '"' ∨ 128 ≤ c.toNat then none
    else (quotedBytes rest).map (BitVec.ofNat 8 c.toNat :: ·)

/-- `<bytes>`: a quoted string, `hex:` and digits, or `<count>*<bytes>`; `fuel` bounds the nesting of repetitions. -/
def bytesOperand : Nat → List Char → Option (List Byte)
  | 0, _ => none
  | _ + 1, '"' :: rest => quotedBytes rest
  | _ + 1, 'h' :: 'e' :: 'x' :: ':' :: rest => hexBytes rest
  | fuel + 1, cs =>
    let digits := cs.takeWhile Char.isDigit
    match digits, cs.drop digits.length with
    | [], _ => none
    | _, '*' :: rest =>
      let count := digits.foldl (fun n c => 10 * n + (c.toNat - '0'.toNat)) 0
      (bytesOperand fuel rest).map fun bs => (List.replicate count bs).flatten
    | _, _ => none

/-- `<word>`: `0x` and 8 hexadecimal digits. -/
def wordOperand : List Char → Option Word
  | '0' :: 'x' :: ds =>
    if ds.length = 8 then (ds.mapM hexDigit).map fun vs => BitVec.ofNat 32 (vs.foldl (fun n v => 16 * n + v) 0)
    else none
  | _ => none

/-! ## Lines (R75) -/

/-- The text up to a comment `;` or an expected response `->`, neither inside a quoted string. -/
def codePart : Bool → List Char → List Char
  | _, [] => []
  | quoted, '"' :: rest => '"' :: codePart (!quoted) rest
  | false, ';' :: _ => []
  | false, '-' :: '>' :: _ => []
  | quoted, c :: rest => c :: codePart quoted rest

/-- Without blanks at either end. -/
def trim (cs : List Char) : List Char :=
  ((cs.dropWhile Char.isWhitespace).reverse.dropWhile Char.isWhitespace).reverse

/-- The parts between commas. -/
def splitCommas : List Char → List (List Char)
  | [] => [[]]
  | ',' :: rest => [] :: splitCommas rest
  | c :: rest =>
    match splitCommas rest with
    | [] => [[c]]
    | p :: ps => (c :: p) :: ps

/-- The operands of a line that takes words: none, or words separated by commas. -/
def wordOperands (cs : List Char) : Option (List Word) :=
  if cs = [] then some [] else (splitCommas cs).mapM fun p => wordOperand (trim p)

/-- The operand of a line that takes bytes. -/
def bytesOf (cs : List Char) : Option (List Byte) := bytesOperand (cs.length + 1) cs

/-- The operand `hex:<digits>`. -/
def hexOf : List Char → Option (List Byte)
  | 'h' :: 'e' :: 'x' :: ':' :: rest => hexBytes rest
  | _ => none

/-- The commands of a mnemonic and its operands (R66, R75, R76). -/
def assembleCommand (mnemonic operands : List Char) : Option (List Instr) :=
  if mnemonic = "PAD".toList then (bytesOf operands).map fun m => [.pad m]
  else if mnemonic = "DIGEST".toList then (bytesOf operands).map fun m => [.digest m]
  else if mnemonic = "COMPRESS".toList then (wordOperands operands).map fun ws => [.compress ws]
  else if mnemonic = "SET_STATE".toList then
    match wordOperands operands with
    | some [a, b, c, d] => some [.setState a b c d]
    | _ => none
  else if mnemonic = "FORMAT".toList ∧ operands = [] then some [.format]
  else if mnemonic = "RESET_IV".toList ∧ operands = [] then some [.resetIv]
  else if mnemonic = "GET_STATE".toList ∧ operands = [] then some [.getState]
  else if mnemonic = "MD4".toList then (bytesOf operands).map expandMd4
  else if mnemonic = "LOAD_DIGEST".toList then (hexOf operands).bind expandLoadDigest
  else if mnemonic = "COMPRESS_BYTES".toList then (hexOf operands).bind expandCompressBytes
  else none

/-- The commands of one line: none for a blank line or a comment; no answer for a line that is not in the notation. -/
def assembleLine (line : List Char) : Option (List Instr) :=
  let cs := trim (codePart false line)
  if cs = [] then some []
  else
    let mnemonic := cs.takeWhile fun c => !c.isWhitespace
    assembleCommand mnemonic (trim (cs.drop mnemonic.length))

/-- The packets a line stands for, in order. -/
def assemblePackets (line : List Char) : Option (List Packet) :=
  (assembleLine line).map fun is => is.filterMap fun i =>
    match encode i with
    | .packet p => some p
    | .sequencer _ => none

end Sys2Proof.Machine
end

