-- ==== Sys2Proof/Safety.lean ====
section
/-! DEFINITION. What counts as a good state and a good run, in the terms the statements use. -/

namespace Sys2Proof.Machine

/-- The bounds a compression in progress stays in (10_state.md R27, R28; 20_memory.md R40, R50; 30_encoding.md R74): the engine is
not halted, `t[5:4]` is never 3, the word count is a whole number of blocks within PB_CAP, and `blk` counts from 0 to `N-1`. -/
abbrev State.sequencerInBounds (s : State) : Prop :=
  s.halted = false ∧ s.t.toNat < 48 ∧ s.wcnt.toNat % 16 = 0 ∧ s.wcnt.toNat ≤ s.params.pbCap ∧ s.blk.toNat < s.blocks

/-- The invariant: the configuration is within the bounds of R8, the buffers are in their canonical form and within their
capacities (R33, R40), and a compression in progress is in bounds. -/
abbrev State.Inv (s : State) : Prop :=
  s.params.valid
  ∧ Buffer.wf s.mb ∧ (∀ e ∈ s.mb, e.1 < s.params.msgCap)
  ∧ Buffer.wf s.pb ∧ (∀ e ∈ s.pb, e.1 < s.params.pbCap)
  ∧ (s.activity = .idle ∨ s.sequencerInBounds)

/-- The host presents no malformed packet (70_reset_and_hazards.md R273: the host may not "send a malformed packet"). -/
def HostEvent.legal : HostEvent → Bool
  | .hardwareReset => true
  | .packet p => decide (decode p ≠ .malformed)
  | .packetCutByReset p => decide (decode p ≠ .malformed)

/-- What the host can see of the engine, and what it controls: the persistent state of R20, whether a command is in progress,
and the streams between them. The transient state of R21 is left out. -/
structure HostView where
  params   : Params
  regs     : Regs
  halted   : Bool
  activity : Activity
  inbox    : List HostEvent
  outbox   : List Packet
deriving DecidableEq, Repr

/-- The host's view of a state. -/
def State.hostView (s : State) : HostView :=
  { params := s.params, regs := s.regs, halted := s.halted, activity := s.activity, inbox := s.inbox, outbox := s.outbox }

/-- The host's view of an outcome. -/
def hostViewOf : Out → Host.Outcome HostView Fault Refusal
  | .next s => .next s.hostView
  | .fault r => .fault r
  | .refused r => .refused r

/-- Executing instructions one after the other, stopping at the first that does not answer a next state. -/
def execAll : List Instr → State → Out
  | [], s => .next s
  | i :: is, s =>
    match exec i s with
    | .next s' => execAll is s'
    | .fault r => .fault r
    | .refused r => .refused r

/-- The length of a packet by its opcode and count fields (30_encoding.md R71). -/
def lengthByFormat (op L Wn : Nat) : Nat :=
  if op = 1 ∨ op = 7 then 72 + 8 * L
  else if op = 2 then 40 + 32 * Wn
  else if op = 4 then 136
  else 8

/-- The message fits the configuration (40_framing.md R92). -/
abbrev State.messageFits (s : State) (L : Nat) : Prop :=
  L ≤ s.params.msgCap ∧ 16 * ((L + 8) / 64 + 1) ≤ s.params.pbCap

end Sys2Proof.Machine
end

