-- ==== Sys2Proof/Certificates/Slice0/Obligations.lean ====
section
/-! DEFINITION. The statements for the provers. -/

open Sys2Proof Sys2Proof.Machine

/-- O1. Decoding the encoding of a well-formed instruction gives it back, for all 55 instructions.
R62, R63, R64, R65, R66, R74, 30_encoding.md. -/
def Obligations.EncodeThenDecode : Prop :=
  ∀ i : Instr, WellFormed i → decodeBits (encode i) = some i

/-- O2. Bits that decode to an instruction are exactly the encoding of that instruction, which is well formed.
R61, R71, R72, R73, R74, 30_encoding.md. -/
def Obligations.DecodeThenEncode : Prop :=
  ∀ (b : InstrBits) (i : Instr), decodeBits b = some i → WellFormed i ∧ encode i = b

/-- O3. The decoder's verdict on a packet with a header: illegal by the header alone, else a command exactly at the length of R71.
R61, R62, R63, R64, R65, R71, R73. -/
def Obligations.DecoderVerdict : Prop :=
  ∀ p : Packet, 8 ≤ p.len →
    ((p.field 4 4 ≠ 0#4 ∨ p.field 0 4 = 0#4 ∨ 8 ≤ (p.field 0 4).toNat) → decode p = .illegal)
    ∧ (p.field 4 4 = 0#4 → 1 ≤ (p.field 0 4).toNat → (p.field 0 4).toNat ≤ 7 →
        (p.len = lengthByFormat (p.field 0 4).toNat (p.field 8 64).toNat (p.field 8 32).toNat → ∃ i, decode p = .command i)
        ∧ (p.len ≠ lengthByFormat (p.field 0 4).toNat (p.field 8 64).toNat (p.field 8 32).toNat → decode p = .malformed))

/-- O4. A bit vector with a legal header and the wrong length, or too short for a header, is no command packet: refused, halted or not (log 8).
R61, R71, R72, R235.
The model's reading (log 8, DEDUCED): R235 speaks of command packets and R72 says that these are none, so a halted engine
refuses them too; fewer than 8 bits hold no header. -/
def Obligations.WrongLengthIsRefused : Prop :=
  (∀ (s : State) (p : Packet) (rest : List HostEvent), s.activity = .idle → s.inbox = .packet p :: rest →
      8 ≤ p.len → p.field 4 4 = 0#4 → 1 ≤ (p.field 0 4).toNat → (p.field 0 4).toNat ≤ 7 →
      p.len ≠ lengthByFormat (p.field 0 4).toNat (p.field 8 64).toNat (p.field 8 32).toNat →
      step s = .refused .malformedPacket ∧ decodeBits (.packet p) = none)
  ∧ (∀ (s : State) (p : Packet) (rest : List HostEvent), s.activity = .idle → s.inbox = .packet p :: rest →
      p.len < 8 → step s = .refused .malformedPacket ∧ decodeBits (.packet p) = none)

/-- O5. Packets the spec's programs write out, one of each command and two reserved headers, and five sequencer values decode to what they stand for.
95_test_vectors.md Part 3, R61, R62, R63, R64, R65, R74. -/
def Obligations.WrittenOutPacketsDecode : Prop :=
  decode ⟨96, 0x636261000000000000000307#96⟩ = .command (.digest [0x61#8, 0x62#8, 0x63#8])
  ∧ decode ⟨72, 0x000000000000000007#72⟩ = .command (.digest [])
  ∧ decode ⟨184, 0x747365676964206567617373656d000000000000000e01#184⟩
      = .command (.pad [0x6d#8, 0x65#8, 0x73#8, 0x73#8, 0x61#8, 0x67#8, 0x65#8, 0x20#8, 0x64#8, 0x69#8, 0x67#8, 0x65#8, 0x73#8, 0x74#8])
  ∧ decode ⟨552, 0x0000000000000070000000000000000000000000000000000000000000000000000000000000000000000000000000000080747365676964206567617373656d0000001002#552⟩
      = .command (.compress ([0x7373656d#32, 0x20656761#32, 0x65676964#32, 0x00807473#32] ++ List.replicate 10 0x00000000#32
          ++ [0x00000070#32, 0x00000000#32]))
  ∧ decode ⟨136, 0xe361f91fa12d84caf660541fac754ef104#136⟩
      = .command (.setState 0xac754ef1#32 0xf660541f#32 0xa12d84ca#32 0xe361f91f#32)
  ∧ decode ⟨8, 0x03#8⟩ = .command .format
  ∧ decode ⟨8, 0x05#8⟩ = .command .resetIv
  ∧ decode ⟨8, 0x06#8⟩ = .command .getState
  ∧ decode ⟨8, 0x09#8⟩ = .illegal
  ∧ decode ⟨8, 0x13#8⟩ = .illegal
  ∧ decodeStep 0b000000#6 = some .step00
  ∧ decodeStep 0b001111#6 = some .step15
  ∧ decodeStep 0b010001#6 = some .step17
  ∧ decodeStep 0b101111#6 = some .step47
  ∧ decodeStep 0b110000#6 = none

/-- O6. The bits of every response: header, state words, digest bytes, padded words.
R67, R68, R69. -/
def Obligations.ResponseLayout : Prop :=
  okResponse .empty = ⟨8, 0x00#8⟩
  ∧ (∀ r : Regs, (okResponse (.state r)).len = 136 ∧ (okResponse (.state r)).field 0 8 = 0#8
      ∧ (okResponse (.state r)).field 8 32 = r.a ∧ (okResponse (.state r)).field 40 32 = r.b
      ∧ (okResponse (.state r)).field 72 32 = r.c ∧ (okResponse (.state r)).field 104 32 = r.d)
  ∧ (∀ g : List Byte, g.length = 16 → (okResponse (.digest g)).len = 136 ∧ (okResponse (.digest g)).field 0 8 = 0#8
      ∧ ∀ i, i < 16 → (okResponse (.digest g)).field (8 + 8 * i) 8 = g.getD i 0#8)
  ∧ (∀ ws : List Word, ws.length < 2 ^ 32 → (okResponse (.words ws)).len = 40 + 32 * ws.length
      ∧ (okResponse (.words ws)).field 0 8 = 0#8 ∧ ((okResponse (.words ws)).field 8 32).toNat = ws.length
      ∧ ∀ j, j < ws.length → (okResponse (.words ws)).field (40 + 32 * j) 32 = ws.getD j 0#32)
  ∧ faultResponse .capacity = ⟨8, 0x01#8⟩ ∧ faultResponse .align = ⟨8, 0x02#8⟩
  ∧ faultResponse .illegal = ⟨8, 0x03#8⟩ ∧ faultResponse .halted = ⟨8, 0x04#8⟩

/-- O7. When the packet the host presents decodes to a command, step is exec of that command.
R54, R60, 20_memory.md section 7. -/
def Obligations.StepRunsTheDecodedCommand : Prop :=
  ∀ (s : State) (p : Packet) (rest : List HostEvent) (i : Instr),
    s.activity = .idle → s.inbox = .packet p :: rest → decode p = .command i →
    step s = exec i { s with inbox := rest }

/-- O8. Inside a compression, step is exec of the step t selects; after step 47 come the feed-forward and the next block or the end (log 5).
R27, R74, R112, R113, R115, R119, R177, R216.
The model's reading (log 5, DEDUCED): a machine step inside a compression is one step of the sequencer, and `step`, not STEP47,
does the feed-forward, the snapshot and the advance of blk. -/
def Obligations.StepRunsTheSequencedStep : Prop :=
  ∀ (s s' : State) (c : Caller) (i : Instr),
    s.activity = .compressing c → s.inbox.head? ≠ some .hardwareReset → decodeStep s.t = some i → exec i s = .next s' →
    let fed : Regs := { a := s'.regs.a + s'.snap.a, b := s'.regs.b + s'.snap.b,
                        c := s'.regs.c + s'.snap.c, d := s'.regs.d + s'.snap.d }
    (s.t ≠ 47#6 → step s = .next s')
    ∧ (s.t = 47#6 → (s'.blk + 1#28).toNat < s'.wcnt.toNat / 16 →
        step s = .next { s' with regs := fed, snap := fed, blk := s'.blk + 1#28, t := 0#6 })
    ∧ (s.t = 47#6 → ¬ (s'.blk + 1#28).toNat < s'.wcnt.toNat / 16 → c = .compress →
        ∃ u, step s = .next u ∧ u.hostView = { s'.hostView with
          regs := fed, activity := .idle, outbox := s'.outbox ++ [okResponse .empty] })
    ∧ (s.t = 47#6 → ¬ (s'.blk + 1#28).toNat < s'.wcnt.toNat / 16 → c = .digest →
        ∃ u, step s = .next u ∧ u.hostView = { s'.hostView with
          regs := { a := 0x67452301#32, b := 0xefcdab89#32, c := 0x98badcfe#32, d := 0x10325476#32 }, activity := .idle,
          outbox := s'.outbox ++ [okResponse (.digest (formatDigest fed))] })

/-- O9. An engine with no command in progress and nothing presented waits: the step changes nothing (the model's reading, log 6).
R251, R260, 70_reset_and_hazards.md section 1. -/
def Obligations.WaitingChangesNothing : Prop :=
  ∀ s : State, s.activity = .idle → s.inbox = [] → step s = .next s

/-- O10. After hardware reset A to D hold the IV; HALTED is 0 and no command is in progress.
R25. -/
def Obligations.ResetState : Prop :=
  State.reset.regs = { a := 0x67452301#32, b := 0xefcdab89#32, c := 0x98badcfe#32, d := 0x10325476#32 }
  ∧ State.reset.halted = false ∧ State.reset.activity = .idle

/-- O11. Hardware reset, between commands or in one: A to D the IV, HALTED 0, no command, no response; configuration and streams stay (log 7).
R22, R25, R28, R260.
The model's choice (log 7, DESIGN CHOICE): the configuration, the rest of the host's stream and the responses stay over the
reset; `packetCutByReset` is a packet whose command the reset abandons, and a malformed one is excepted. -/
def Obligations.HardwareResetAtAnyTime : Prop :=
  (∀ (s : State) (rest : List HostEvent), s.inbox = .hardwareReset :: rest →
      ∃ t, step s = .next t ∧ t.hostView = { s.hostView with
        regs := { a := 0x67452301#32, b := 0xefcdab89#32, c := 0x98badcfe#32, d := 0x10325476#32 },
        halted := false, activity := .idle, inbox := rest })
  ∧ (∀ (s : State) (p : Packet) (rest : List HostEvent), s.activity = .idle → s.inbox = .packetCutByReset p :: rest →
      decode p ≠ .malformed →
      ∃ t, step s = .next t ∧ t.hostView = { s.hostView with
        regs := { a := 0x67452301#32, b := 0xefcdab89#32, c := 0x98badcfe#32, d := 0x10325476#32 },
        halted := false, activity := .idle, inbox := rest })

/-- O12. Steps 0 to 11 write the register of their rule with the rotated sum and nothing else, and advance t.
R130, R131, R132, R133, R134, R135, R136, R137, R138, R139, R140, R141. -/
def Obligations.Steps00To11 : Prop :=
  (∀ s : State, exec .step00 s = .next { s with
      regs := { s.regs with a := rotl32 (s.regs.a + fnF s.regs.b s.regs.c s.regs.d + s.readPB (16 * s.blk.toNat + 0)) 3 }, t := 1#6 })
  ∧ (∀ s : State, exec .step01 s = .next { s with
      regs := { s.regs with d := rotl32 (s.regs.d + fnF s.regs.a s.regs.b s.regs.c + s.readPB (16 * s.blk.toNat + 1)) 7 }, t := 2#6 })
  ∧ (∀ s : State, exec .step02 s = .next { s with
      regs := { s.regs with c := rotl32 (s.regs.c + fnF s.regs.d s.regs.a s.regs.b + s.readPB (16 * s.blk.toNat + 2)) 11 }, t := 3#6 })
  ∧ (∀ s : State, exec .step03 s = .next { s with
      regs := { s.regs with b := rotl32 (s.regs.b + fnF s.regs.c s.regs.d s.regs.a + s.readPB (16 * s.blk.toNat + 3)) 19 }, t := 4#6 })
  ∧ (∀ s : State, exec .step04 s = .next { s with
      regs := { s.regs with a := rotl32 (s.regs.a + fnF s.regs.b s.regs.c s.regs.d + s.readPB (16 * s.blk.toNat + 4)) 3 }, t := 5#6 })
  ∧ (∀ s : State, exec .step05 s = .next { s with
      regs := { s.regs with d := rotl32 (s.regs.d + fnF s.regs.a s.regs.b s.regs.c + s.readPB (16 * s.blk.toNat + 5)) 7 }, t := 6#6 })
  ∧ (∀ s : State, exec .step06 s = .next { s with
      regs := { s.regs with c := rotl32 (s.regs.c + fnF s.regs.d s.regs.a s.regs.b + s.readPB (16 * s.blk.toNat + 6)) 11 }, t := 7#6 })
  ∧ (∀ s : State, exec .step07 s = .next { s with
      regs := { s.regs with b := rotl32 (s.regs.b + fnF s.regs.c s.regs.d s.regs.a + s.readPB (16 * s.blk.toNat + 7)) 19 }, t := 8#6 })
  ∧ (∀ s : State, exec .step08 s = .next { s with
      regs := { s.regs with a := rotl32 (s.regs.a + fnF s.regs.b s.regs.c s.regs.d + s.readPB (16 * s.blk.toNat + 8)) 3 }, t := 9#6 })
  ∧ (∀ s : State, exec .step09 s = .next { s with
      regs := { s.regs with d := rotl32 (s.regs.d + fnF s.regs.a s.regs.b s.regs.c + s.readPB (16 * s.blk.toNat + 9)) 7 }, t := 10#6 })
  ∧ (∀ s : State, exec .step10 s = .next { s with
      regs := { s.regs with c := rotl32 (s.regs.c + fnF s.regs.d s.regs.a s.regs.b + s.readPB (16 * s.blk.toNat + 10)) 11 }, t := 11#6 })
  ∧ (∀ s : State, exec .step11 s = .next { s with
      regs := { s.regs with b := rotl32 (s.regs.b + fnF s.regs.c s.regs.d s.regs.a + s.readPB (16 * s.blk.toNat + 11)) 19 }, t := 12#6 })

/-- O13. Steps 12 to 23 write the register of their rule with the rotated sum and nothing else, and advance t.
R142, R143, R144, R145, R146, R147, R148, R149, R150, R151, R152, R153. -/
def Obligations.Steps12To23 : Prop :=
  (∀ s : State, exec .step12 s = .next { s with
      regs := { s.regs with a := rotl32 (s.regs.a + fnF s.regs.b s.regs.c s.regs.d + s.readPB (16 * s.blk.toNat + 12)) 3 }, t := 13#6 })
  ∧ (∀ s : State, exec .step13 s = .next { s with
      regs := { s.regs with d := rotl32 (s.regs.d + fnF s.regs.a s.regs.b s.regs.c + s.readPB (16 * s.blk.toNat + 13)) 7 }, t := 14#6 })
  ∧ (∀ s : State, exec .step14 s = .next { s with
      regs := { s.regs with c := rotl32 (s.regs.c + fnF s.regs.d s.regs.a s.regs.b + s.readPB (16 * s.blk.toNat + 14)) 11 }, t := 15#6 })
  ∧ (∀ s : State, exec .step15 s = .next { s with
      regs := { s.regs with b := rotl32 (s.regs.b + fnF s.regs.c s.regs.d s.regs.a + s.readPB (16 * s.blk.toNat + 15)) 19 }, t := 16#6 })
  ∧ (∀ s : State, exec .step16 s = .next { s with
      regs := { s.regs with a := rotl32 (s.regs.a + fnG s.regs.b s.regs.c s.regs.d + s.readPB (16 * s.blk.toNat + 0) + 0x5A827999#32) 3 }, t := 17#6 })
  ∧ (∀ s : State, exec .step17 s = .next { s with
      regs := { s.regs with d := rotl32 (s.regs.d + fnG s.regs.a s.regs.b s.regs.c + s.readPB (16 * s.blk.toNat + 4) + 0x5A827999#32) 5 }, t := 18#6 })
  ∧ (∀ s : State, exec .step18 s = .next { s with
      regs := { s.regs with c := rotl32 (s.regs.c + fnG s.regs.d s.regs.a s.regs.b + s.readPB (16 * s.blk.toNat + 8) + 0x5A827999#32) 9 }, t := 19#6 })
  ∧ (∀ s : State, exec .step19 s = .next { s with
      regs := { s.regs with b := rotl32 (s.regs.b + fnG s.regs.c s.regs.d s.regs.a + s.readPB (16 * s.blk.toNat + 12) + 0x5A827999#32) 13 }, t := 20#6 })
  ∧ (∀ s : State, exec .step20 s = .next { s with
      regs := { s.regs with a := rotl32 (s.regs.a + fnG s.regs.b s.regs.c s.regs.d + s.readPB (16 * s.blk.toNat + 1) + 0x5A827999#32) 3 }, t := 21#6 })
  ∧ (∀ s : State, exec .step21 s = .next { s with
      regs := { s.regs with d := rotl32 (s.regs.d + fnG s.regs.a s.regs.b s.regs.c + s.readPB (16 * s.blk.toNat + 5) + 0x5A827999#32) 5 }, t := 22#6 })
  ∧ (∀ s : State, exec .step22 s = .next { s with
      regs := { s.regs with c := rotl32 (s.regs.c + fnG s.regs.d s.regs.a s.regs.b + s.readPB (16 * s.blk.toNat + 9) + 0x5A827999#32) 9 }, t := 23#6 })
  ∧ (∀ s : State, exec .step23 s = .next { s with
      regs := { s.regs with b := rotl32 (s.regs.b + fnG s.regs.c s.regs.d s.regs.a + s.readPB (16 * s.blk.toNat + 13) + 0x5A827999#32) 13 }, t := 24#6 })

/-- O14. Steps 24 to 35 write the register of their rule with the rotated sum and nothing else, and advance t.
R154, R155, R156, R157, R158, R159, R160, R161, R162, R163, R164, R165. -/
def Obligations.Steps24To35 : Prop :=
  (∀ s : State, exec .step24 s = .next { s with
      regs := { s.regs with a := rotl32 (s.regs.a + fnG s.regs.b s.regs.c s.regs.d + s.readPB (16 * s.blk.toNat + 2) + 0x5A827999#32) 3 }, t := 25#6 })
  ∧ (∀ s : State, exec .step25 s = .next { s with
      regs := { s.regs with d := rotl32 (s.regs.d + fnG s.regs.a s.regs.b s.regs.c + s.readPB (16 * s.blk.toNat + 6) + 0x5A827999#32) 5 }, t := 26#6 })
  ∧ (∀ s : State, exec .step26 s = .next { s with
      regs := { s.regs with c := rotl32 (s.regs.c + fnG s.regs.d s.regs.a s.regs.b + s.readPB (16 * s.blk.toNat + 10) + 0x5A827999#32) 9 }, t := 27#6 })
  ∧ (∀ s : State, exec .step27 s = .next { s with
      regs := { s.regs with b := rotl32 (s.regs.b + fnG s.regs.c s.regs.d s.regs.a + s.readPB (16 * s.blk.toNat + 14) + 0x5A827999#32) 13 }, t := 28#6 })
  ∧ (∀ s : State, exec .step28 s = .next { s with
      regs := { s.regs with a := rotl32 (s.regs.a + fnG s.regs.b s.regs.c s.regs.d + s.readPB (16 * s.blk.toNat + 3) + 0x5A827999#32) 3 }, t := 29#6 })
  ∧ (∀ s : State, exec .step29 s = .next { s with
      regs := { s.regs with d := rotl32 (s.regs.d + fnG s.regs.a s.regs.b s.regs.c + s.readPB (16 * s.blk.toNat + 7) + 0x5A827999#32) 5 }, t := 30#6 })
  ∧ (∀ s : State, exec .step30 s = .next { s with
      regs := { s.regs with c := rotl32 (s.regs.c + fnG s.regs.d s.regs.a s.regs.b + s.readPB (16 * s.blk.toNat + 11) + 0x5A827999#32) 9 }, t := 31#6 })
  ∧ (∀ s : State, exec .step31 s = .next { s with
      regs := { s.regs with b := rotl32 (s.regs.b + fnG s.regs.c s.regs.d s.regs.a + s.readPB (16 * s.blk.toNat + 15) + 0x5A827999#32) 13 }, t := 32#6 })
  ∧ (∀ s : State, exec .step32 s = .next { s with
      regs := { s.regs with a := rotl32 (s.regs.a + fnH s.regs.b s.regs.c s.regs.d + s.readPB (16 * s.blk.toNat + 0) + 0x6ED9EBA1#32) 3 }, t := 33#6 })
  ∧ (∀ s : State, exec .step33 s = .next { s with
      regs := { s.regs with d := rotl32 (s.regs.d + fnH s.regs.a s.regs.b s.regs.c + s.readPB (16 * s.blk.toNat + 8) + 0x6ED9EBA1#32) 9 }, t := 34#6 })
  ∧ (∀ s : State, exec .step34 s = .next { s with
      regs := { s.regs with c := rotl32 (s.regs.c + fnH s.regs.d s.regs.a s.regs.b + s.readPB (16 * s.blk.toNat + 4) + 0x6ED9EBA1#32) 11 }, t := 35#6 })
  ∧ (∀ s : State, exec .step35 s = .next { s with
      regs := { s.regs with b := rotl32 (s.regs.b + fnH s.regs.c s.regs.d s.regs.a + s.readPB (16 * s.blk.toNat + 12) + 0x6ED9EBA1#32) 15 }, t := 36#6 })

/-- O15. Steps 36 to 47 write the register of their rule with the rotated sum and nothing else, and advance t (step 47 leaves it).
R166, R167, R168, R169, R170, R171, R172, R173, R174, R175, R176. -/
def Obligations.Steps36To47 : Prop :=
  (∀ s : State, exec .step36 s = .next { s with
      regs := { s.regs with a := rotl32 (s.regs.a + fnH s.regs.b s.regs.c s.regs.d + s.readPB (16 * s.blk.toNat + 2) + 0x6ED9EBA1#32) 3 }, t := 37#6 })
  ∧ (∀ s : State, exec .step37 s = .next { s with
      regs := { s.regs with d := rotl32 (s.regs.d + fnH s.regs.a s.regs.b s.regs.c + s.readPB (16 * s.blk.toNat + 10) + 0x6ED9EBA1#32) 9 }, t := 38#6 })
  ∧ (∀ s : State, exec .step38 s = .next { s with
      regs := { s.regs with c := rotl32 (s.regs.c + fnH s.regs.d s.regs.a s.regs.b + s.readPB (16 * s.blk.toNat + 6) + 0x6ED9EBA1#32) 11 }, t := 39#6 })
  ∧ (∀ s : State, exec .step39 s = .next { s with
      regs := { s.regs with b := rotl32 (s.regs.b + fnH s.regs.c s.regs.d s.regs.a + s.readPB (16 * s.blk.toNat + 14) + 0x6ED9EBA1#32) 15 }, t := 40#6 })
  ∧ (∀ s : State, exec .step40 s = .next { s with
      regs := { s.regs with a := rotl32 (s.regs.a + fnH s.regs.b s.regs.c s.regs.d + s.readPB (16 * s.blk.toNat + 1) + 0x6ED9EBA1#32) 3 }, t := 41#6 })
  ∧ (∀ s : State, exec .step41 s = .next { s with
      regs := { s.regs with d := rotl32 (s.regs.d + fnH s.regs.a s.regs.b s.regs.c + s.readPB (16 * s.blk.toNat + 9) + 0x6ED9EBA1#32) 9 }, t := 42#6 })
  ∧ (∀ s : State, exec .step42 s = .next { s with
      regs := { s.regs with c := rotl32 (s.regs.c + fnH s.regs.d s.regs.a s.regs.b + s.readPB (16 * s.blk.toNat + 5) + 0x6ED9EBA1#32) 11 }, t := 43#6 })
  ∧ (∀ s : State, exec .step43 s = .next { s with
      regs := { s.regs with b := rotl32 (s.regs.b + fnH s.regs.c s.regs.d s.regs.a + s.readPB (16 * s.blk.toNat + 13) + 0x6ED9EBA1#32) 15 }, t := 44#6 })
  ∧ (∀ s : State, exec .step44 s = .next { s with
      regs := { s.regs with a := rotl32 (s.regs.a + fnH s.regs.b s.regs.c s.regs.d + s.readPB (16 * s.blk.toNat + 3) + 0x6ED9EBA1#32) 3 }, t := 45#6 })
  ∧ (∀ s : State, exec .step45 s = .next { s with
      regs := { s.regs with d := rotl32 (s.regs.d + fnH s.regs.a s.regs.b s.regs.c + s.readPB (16 * s.blk.toNat + 11) + 0x6ED9EBA1#32) 9 }, t := 46#6 })
  ∧ (∀ s : State, exec .step46 s = .next { s with
      regs := { s.regs with c := rotl32 (s.regs.c + fnH s.regs.d s.regs.a s.regs.b + s.readPB (16 * s.blk.toNat + 7) + 0x6ED9EBA1#32) 11 }, t := 47#6 })
  ∧ (∀ s : State, exec .step47 s = .next { s with
      regs := { s.regs with b := rotl32 (s.regs.b + fnH s.regs.c s.regs.d s.regs.a + s.readPB (16 * s.blk.toNat + 15) + 0x6ED9EBA1#32) 15 }, t := s.t })

/-- O16. The 48 steps are the ones the lists of the three rounds give: roles, function, constant, word index, shift.
R116, R117, R118. -/
def Obligations.StepsFollowTheRoundLists : Prop :=
  ∀ (n : Nat) (s : State), n < 48 →
    ∃ i, decodeStep (BitVec.ofNat 6 n) = some i
      ∧ exec i s = .next { s with
          regs := applyRow (stepRow n) s.blockWord s.regs
          t := if n < 47 then BitVec.ofNat 6 (n + 1) else s.t }

/-- O17. Frame of the steps: only the register in role a and t change.
R13, R123, R131, R234, 41_compression.md section 5. -/
def Obligations.StepsChangeOneRegister : Prop :=
  ∀ (n : Nat) (i : Instr) (s u : State), n < 48 → decodeStep (BitVec.ofNat 6 n) = some i → exec i s = .next u →
    (∀ r : Reg, r ≠ (rolesAt (n % 16)).1 → readReg u.regs r = readReg s.regs r)
    ∧ u.halted = s.halted ∧ u.snap = s.snap ∧ (∀ k, u.readMB k = s.readMB k) ∧ (∀ k, u.readPB k = s.readPB k)
    ∧ u.len = s.len ∧ u.wcnt = s.wcnt ∧ u.blk = s.blk ∧ u.activity = s.activity ∧ u.params = s.params
    ∧ u.inbox = s.inbox ∧ u.outbox = s.outbox

/-- O18. F selects, G is the majority, H is the parity, bit by bit.
R11, R123. -/
def Obligations.RoundFunctionsBitwise : Prop :=
  ∀ (x y z : Word) (i : Nat),
    (fnF x y z).getLsbD i = (if x.getLsbD i then y.getLsbD i else z.getLsbD i)
    ∧ (fnG x y z).getLsbD i = decide (2 ≤ (x.getLsbD i).toNat + (y.getLsbD i).toNat + (z.getLsbD i).toNat)
    ∧ (fnH x y z).getLsbD i = decide (((x.getLsbD i).toNat + (y.getLsbD i).toNat + (z.getLsbD i).toNat) % 2 = 1)

/-- O19. rotl32 is the 32-bit circular left shift, and a step's sum wraps modulo 2^32.
R11, R111. -/
def Obligations.RotationIsCircular : Prop :=
  (∀ (v : Word) (s i : Nat), 1 ≤ s → s ≤ 31 → i < 32 → (rotl32 v s).getLsbD ((i + s) % 32) = v.getLsbD i)
  ∧ (∀ (f : Word → Word → Word → Word) (a b c d x k : Word) (s : Nat),
      stepValue f a b c d x k s
        = rotl32 (BitVec.ofNat 32 ((a.toNat + (f b c d).toNat + x.toNat + k.toNat) % 2 ^ 32)) s)

/-- O20. le32 takes the first byte as the least significant, equals bswap32 of be32, and bswap32 is its own inverse.
R11, R45, R46, R48. -/
def Obligations.ByteOrders : Prop :=
  ∀ b0 b1 b2 b3 : Byte,
    (le32 b0 b1 b2 b3).toNat = b0.toNat + 2 ^ 8 * b1.toNat + 2 ^ 16 * b2.toNat + 2 ^ 24 * b3.toNat
    ∧ (be32 b0 b1 b2 b3).toNat = 2 ^ 24 * b0.toNat + 2 ^ 16 * b1.toNat + 2 ^ 8 * b2.toNat + b3.toNat
    ∧ bswap32 (be32 b0 b1 b2 b3) = le32 b0 b1 b2 b3
    ∧ ∀ v : Word, bswap32 (bswap32 v) = v

/-- O21. The number of zero bytes is the unique k below 64 with (L + 1 + k) mod 64 = 56, and N = (L + 8) div 64 + 1 blocks result.
R91. -/
def Obligations.PaddingCounts : Prop :=
  ∀ L : Nat,
    (zeroCount L : Int) = (55 - (L : Int)) % 64
    ∧ (L % 64 ≤ 55 → zeroCount L = 55 - L % 64) ∧ (55 < L % 64 → zeroCount L = 119 - L % 64)
    ∧ zeroCount L < 64 ∧ (L + 1 + zeroCount L) % 64 = 56
    ∧ (∀ k, k < 64 → (L + 1 + k) % 64 = 56 → k = zeroCount L)
    ∧ blockCount L = (L + 8) / 64 + 1 ∧ 1 ≤ blockCount L
    ∧ L + 1 + zeroCount L + 8 = 64 * blockCount L

/-- O22. Messages of 55, 56 and 57 bytes give 1, 2 and 2 blocks; N grows by one exactly where L mod 64 passes from 55 to 56.
R101. -/
def Obligations.LengthBoundary : Prop :=
  (zeroCount 55 = 0 ∧ blockCount 55 = 1) ∧ (zeroCount 56 = 63 ∧ blockCount 56 = 2) ∧ (zeroCount 57 = 62 ∧ blockCount 57 = 2)
  ∧ ∀ L : Nat, blockCount (L + 1) = blockCount L + (if L % 64 = 55 then 1 else 0)

/-- O23. frame() fills PB with the little-endian words of the padded bytes and the two length words, and sets WCNT to 16*N.
R93, R94, R95, R96. -/
def Obligations.FramingFillsThePaddedBuffer : Prop :=
  ∀ (s : State) (msg : List Byte), s.params.valid → s.messageFits msg.length →
    let L := msg.length
    let Lp := L + 1 + zeroCount L
    let P := fun i => if i < L then msg.getD i 0#8 else if i = L then 0x80#8 else 0x00#8
    let t := (s.receive msg).frame
    Lp % 64 = 56 ∧ Lp / 4 % 16 = 14
    ∧ (∀ j, j < Lp / 4 → (t.readPB j).toNat
        = (P (4 * j)).toNat + 2 ^ 8 * (P (4 * j + 1)).toNat + 2 ^ 16 * (P (4 * j + 2)).toNat + 2 ^ 24 * (P (4 * j + 3)).toNat)
    ∧ (t.readPB (Lp / 4)).toNat = 8 * L % 2 ^ 32 ∧ (t.readPB (Lp / 4 + 1)).toNat = 8 * L / 2 ^ 32
    ∧ (L < 2 ^ 29 → t.readPB (Lp / 4 + 1) = 0#32)
    ∧ t.wcnt.toNat = Lp / 4 + 2 ∧ t.wcnt.toNat = 16 * ((L + 8) / 64 + 1)
    ∧ t.regs = s.regs ∧ t.halted = s.halted

/-- O24. The padded message is the message, one 0x80 byte, k zero bytes and the 8 length bytes: 64*N bytes, 16*N words.
R90, R99, R100. -/
def Obligations.PaddedMessageForm : Prop :=
  ∀ msg : List Byte,
    let S := paddedMessage msg
    let N := blockCount msg.length
    S.length = 64 * N ∧ S.take msg.length = msg ∧ S.getD msg.length 0#8 = 0x80#8
    ∧ (∀ i, msg.length < i → i ≤ msg.length + zeroCount msg.length → S.getD i 0xFF#8 = 0x00#8)
    ∧ (∀ i, i < 8 → S.getD (64 * N - 8 + i) 0xFF#8 = BitVec.ofNat 8 (8 * msg.length / 2 ^ (8 * i)))
    ∧ (paddedWords msg).length = 16 * N ∧ 16 ≤ (paddedWords msg).length
    ∧ ∀ j, j < 16 * N → (paddedWords msg).getD j 0#32
        = le32 (S.getD (4 * j) 0#8) (S.getD (4 * j + 1) 0#8) (S.getD (4 * j + 2) 0#8) (S.getD (4 * j + 3) 0#8)

/-- O25. PAD: HALTED, else CAPACITY, else OK with the padded words; A to D and HALTED are never written.
R92. -/
def Obligations.PadCommand : Prop :=
  ∀ (s : State) (msg : List Byte), s.params.valid →
    (s.halted = true → exec (.pad msg) s = .next { s with outbox := s.outbox ++ [Packet.ofNat 8 4] })
    ∧ (s.halted = false → ¬ s.messageFits msg.length → exec (.pad msg) s = .next { s with outbox := s.outbox ++ [Packet.ofNat 8 1] })
    ∧ (s.halted = false → s.messageFits msg.length →
        ∃ t, exec (.pad msg) s = .next t ∧ t.hostView = { s.hostView with
          activity := .idle, outbox := s.outbox ++ [okResponse (.words (paddedWords msg))] })

/-- O26. COMPRESS: HALTED, CAPACITY, ALIGN in that order, else A to D become the chained result of the block function over the words.
R112, R113, R119. -/
def Obligations.CompressCommand : Prop :=
  ∀ (s : State) (words : List Word), s.params.valid →
    (s.halted = true → exec (.compress words) s = .next { s with outbox := s.outbox ++ [Packet.ofNat 8 4] })
    ∧ (s.halted = false → s.params.pbCap < words.length → exec (.compress words) s = .next { s with outbox := s.outbox ++ [Packet.ofNat 8 1] })
    ∧ (s.halted = false → words.length ≤ s.params.pbCap → words.length % 16 ≠ 0 →
        exec (.compress words) s = .next { s with halted := true, outbox := s.outbox ++ [Packet.ofNat 8 2] })
    ∧ (s.halted = false → words.length ≤ s.params.pbCap → words.length % 16 = 0 →
        ∃ t, exec (.compress words) s = .next t ∧ t.hostView = { s.hostView with
          regs := chain s.regs words, activity := .idle, outbox := s.outbox ++ [okResponse .empty] })

/-- O27. COMPRESS of zero words changes no register and answers OK; framing never produces it.
R121. -/
def Obligations.CompressOfNothing : Prop :=
  (∀ s : State, s.halted = false →
      ∃ t, exec (.compress []) s = .next t ∧ t.hostView = { s.hostView with
        activity := .idle, outbox := s.outbox ++ [okResponse .empty] })
  ∧ (∀ msg : List Byte, paddedWords msg ≠ [])

/-- O28. Compressing two block-aligned sequences one after the other is compressing them as one.
R110, R120, R112. -/
def Obligations.CompressChains : Prop :=
  ∀ (s : State) (ws vs : List Word), s.params.valid → s.halted = false → ws.length % 16 = 0 → vs.length % 16 = 0 →
    ws.length + vs.length ≤ s.params.pbCap →
    ∃ t u v, exec (.compress ws) s = .next t ∧ exec (.compress vs) t = .next u ∧ exec (.compress (ws ++ vs)) s = .next v
      ∧ u.regs = v.regs ∧ u.halted = false ∧ v.halted = false
      ∧ u.outbox = s.outbox ++ [okResponse .empty, okResponse .empty] ∧ v.outbox = s.outbox ++ [okResponse .empty]

/-- O29. FORMAT answers the 16 digest bytes, least significant byte of A first, and writes nothing; a halted engine answers HALTED.
R191, R192. -/
def Obligations.FormatCommand : Prop :=
  ∀ s : State,
    (s.halted = true → exec .format s = .next { s with outbox := s.outbox ++ [Packet.ofNat 8 4] })
    ∧ (s.halted = false → exec .format s = .next { s with outbox := s.outbox ++ [okResponse (.digest
        [ s.regs.a.extractLsb' 0 8, s.regs.a.extractLsb' 8 8, s.regs.a.extractLsb' 16 8, s.regs.a.extractLsb' 24 8,
          s.regs.b.extractLsb' 0 8, s.regs.b.extractLsb' 8 8, s.regs.b.extractLsb' 16 8, s.regs.b.extractLsb' 24 8,
          s.regs.c.extractLsb' 0 8, s.regs.c.extractLsb' 8 8, s.regs.c.extractLsb' 16 8, s.regs.c.extractLsb' 24 8,
          s.regs.d.extractLsb' 0 8, s.regs.d.extractLsb' 8 8, s.regs.d.extractLsb' 16 8, s.regs.d.extractLsb' 24 8 ])] })

/-- O30. Formatting loses nothing: the registers of a digest format to it, and the digest of registers gives them back.
R194, R195. -/
def Obligations.FormatIsABijection : Prop :=
  (∀ r : Regs, (formatDigest r).length = 16 ∧ registersOfDigest (formatDigest r) = r)
  ∧ (∀ g : List Byte, g.length = 16 → formatDigest (registersOfDigest g) = g
      ∧ registersOfDigest g =
        { a := le32 (g.getD 0 0#8) (g.getD 1 0#8) (g.getD 2 0#8) (g.getD 3 0#8)
          b := le32 (g.getD 4 0#8) (g.getD 5 0#8) (g.getD 6 0#8) (g.getD 7 0#8)
          c := le32 (g.getD 8 0#8) (g.getD 9 0#8) (g.getD 10 0#8) (g.getD 11 0#8)
          d := le32 (g.getD 12 0#8) (g.getD 13 0#8) (g.getD 14 0#8) (g.getD 15 0#8) })
  ∧ (∀ r : Regs, wordsOfBytes (formatDigest r) = [r.a, r.b, r.c, r.d])
  ∧ (registersOfDigest [0xf1#8, 0x4e#8, 0x75#8, 0xac#8, 0x1f#8, 0x54#8, 0x60#8, 0xf6#8, 0xca#8, 0x84#8, 0x2d#8, 0xa1#8,
        0x1f#8, 0xf9#8, 0x61#8, 0xe3#8]
      = { a := 0xac754ef1#32, b := 0xf660541f#32, c := 0xa12d84ca#32, d := 0xe361f91f#32 })

/-- O31. SET_STATE writes the four operand values, all at once, and answers OK; a halted engine answers HALTED.
R202. -/
def Obligations.SetStateCommand : Prop :=
  ∀ (s : State) (a b c d : Word),
    (s.halted = true → exec (.setState a b c d) s = .next { s with outbox := s.outbox ++ [Packet.ofNat 8 4] })
    ∧ (s.halted = false → exec (.setState a b c d) s = .next { s with
        regs := { a := a, b := b, c := c, d := d }, outbox := s.outbox ++ [Packet.ofNat 8 0] })
    ∧ (exec (.setState 0x67452301#32 0xefcdab89#32 0x98badcfe#32 0x10325476#32) s = exec .resetIv s)
    ∧ (∀ (e f g h : Word) (t : State), s.halted = false → exec (.setState e f g h) s = .next t →
        ∃ u, exec (.setState a b c d) t = .next u ∧ u.regs = { a := a, b := b, c := c, d := d })

/-- O32. RESET_IV writes the IV to A to D, answers OK and does not clear HALTED; a halted engine answers HALTED.
R200. -/
def Obligations.ResetIvCommand : Prop :=
  ∀ s : State,
    (s.halted = true → exec .resetIv s = .next { s with outbox := s.outbox ++ [Packet.ofNat 8 4] })
    ∧ (s.halted = false → exec .resetIv s = .next { s with
        regs := { a := 0x67452301#32, b := 0xefcdab89#32, c := 0x98badcfe#32, d := 0x10325476#32 },
        outbox := s.outbox ++ [Packet.ofNat 8 0] })

/-- O33. GET_STATE answers A to D raw and writes nothing; SET_STATE with the returned values restores them; a halted engine answers HALTED.
R204. -/
def Obligations.GetStateCommand : Prop :=
  ∀ s : State,
    (s.halted = true → exec .getState s = .next { s with outbox := s.outbox ++ [Packet.ofNat 8 4] })
    ∧ (s.halted = false → ∃ rsp : Packet,
        exec .getState s = .next { s with outbox := s.outbox ++ [rsp] }
        ∧ rsp.len = 136 ∧ rsp.field 0 8 = 0#8
        ∧ rsp.field 8 32 = s.regs.a ∧ rsp.field 40 32 = s.regs.b ∧ rsp.field 72 32 = s.regs.c ∧ rsp.field 104 32 = s.regs.d
        ∧ ∀ u : State, u.halted = false →
            ∃ v, exec (.setState (rsp.field 8 32) (rsp.field 40 32) (rsp.field 72 32) (rsp.field 104 32)) u = .next v
              ∧ v.regs = s.regs)

/-- O34. DIGEST: HALTED, else CAPACITY, else the digest from the current A to D, which are then the IV.
R216. -/
def Obligations.DigestCommand : Prop :=
  ∀ (s : State) (msg : List Byte), s.params.valid →
    (s.halted = true → exec (.digest msg) s = .next { s with outbox := s.outbox ++ [Packet.ofNat 8 4] })
    ∧ (s.halted = false → ¬ s.messageFits msg.length → exec (.digest msg) s = .next { s with outbox := s.outbox ++ [Packet.ofNat 8 1] })
    ∧ (s.halted = false → s.messageFits msg.length →
        ∃ t, exec (.digest msg) s = .next t ∧ t.hostView = { s.hostView with
          regs := { a := 0x67452301#32, b := 0xefcdab89#32, c := 0x98badcfe#32, d := 0x10325476#32 },
          activity := .idle,
          outbox := s.outbox ++ [okResponse (.digest (formatDigest (chain s.regs (paddedWords msg))))] })

/-- O35. DIGEST m is PAD m, COMPRESS of its words, FORMAT, RESET_IV: the same payload and the same persistent state.
R221. -/
def Obligations.DigestIsPadCompressFormatReset : Prop :=
  ∀ (s : State) (msg : List Byte), s.params.valid → s.halted = false → s.messageFits msg.length →
    ∃ (w : List Word) (g : List Byte) (s1 s2 s3 s4 t : State),
      exec (.pad msg) s = .next s1 ∧ s1.outbox = s.outbox ++ [okResponse (.words w)]
      ∧ exec (.compress w) s1 = .next s2 ∧ s2.outbox = s1.outbox ++ [okResponse .empty]
      ∧ exec .format s2 = .next s3 ∧ s3.outbox = s2.outbox ++ [okResponse (.digest g)]
      ∧ exec .resetIv s3 = .next s4 ∧ s4.outbox = s3.outbox ++ [okResponse .empty]
      ∧ exec (.digest msg) s = .next t ∧ t.outbox = s.outbox ++ [okResponse (.digest g)]
      ∧ t.regs = s4.regs ∧ t.halted = s4.halted
      ∧ (s.regs = Config.iv → g = md4 msg)

/-- O36. After SET_STATE the first DIGEST starts from the set state, the second from the IV.
R267. -/
def Obligations.SetStateIsUsedOnce : Prop :=
  ∀ (s : State) (a b c d : Word) (m1 m2 : List Byte), s.params.valid → s.halted = false →
    s.messageFits m1.length → s.messageFits m2.length →
    ∃ t, execAll [.setState a b c d, .digest m1, .digest m2] s = .next t
      ∧ t.outbox = s.outbox ++ [okResponse .empty, okResponse (.digest (digestFrom { a := a, b := b, c := c, d := d } m1)),
          okResponse (.digest (md4 m2))]
      ∧ t.regs = Config.iv

/-- O37. Two successful DIGESTs of one message, each entered at the IV, give the same bytes; after any successful DIGEST the next is entered at the IV.
R220. -/
def Obligations.DigestIsDeterministic : Prop :=
  (∀ (s u : State) (m : List Byte), s.params.valid → u.params.valid → s.halted = false → u.halted = false →
      s.regs = Config.iv → u.regs = Config.iv → s.messageFits m.length → u.messageFits m.length →
      ∃ s' u' rsp, exec (.digest m) s = .next s' ∧ exec (.digest m) u = .next u'
        ∧ s'.outbox = s.outbox ++ [rsp] ∧ u'.outbox = u.outbox ++ [rsp])
  ∧ (∀ (s : State) (m1 m2 : List Byte), s.params.valid → s.halted = false → s.messageFits m1.length →
      s.messageFits m2.length →
      ∃ s' s'', exec (.digest m1) s = .next s' ∧ s'.regs = Config.iv
        ∧ exec (.digest m2) s' = .next s'' ∧ s''.outbox = s'.outbox ++ [okResponse (.digest (md4 m2))])

/-- O38. Length extension: from the digest of m alone, LOAD_DIGEST, COMPRESS of the continuation and FORMAT give the digest of m, glue and extra.
R222, R203, R195, R76, 44_digest.md. -/
def Obligations.LengthExtension : Prop :=
  ∀ (s : State) (m extra : List Byte),
    let full := m ++ paddingOf m.length ++ extra
    let cont := (paddedWords full).drop (16 * blockCount m.length)
    let r := registersOfDigest (md4 m)
    s.params.valid → s.halted = false → s.messageFits full.length →
    (∃ t, exec (.pad full) s = .next t ∧ t.outbox = s.outbox ++ [okResponse (.words (paddedWords full))])
    ∧ (∃ t, execAll [.setState r.a r.b r.c r.d, .compress cont, .format] s = .next t
        ∧ t.outbox = s.outbox ++ [okResponse .empty, okResponse .empty, okResponse (.digest (md4 full))])
    ∧ (∀ m' : List Byte, m'.length = m.length →
        (paddedWords (m' ++ paddingOf m'.length ++ extra)).drop (16 * blockCount m'.length) = cont)

/-- O39. MD4 does not depend on A to D, LOAD_DIGEST then FORMAT gives the digest back, COMPRESS_BYTES compresses the little-endian words.
R76, R195, R266. -/
def Obligations.PseudoInstructionsDoWhatTheySay : Prop :=
  (∀ (s : State) (m : List Byte), s.params.valid → s.halted = false → s.messageFits m.length →
      ∃ t, execAll (expandMd4 m) s = .next t
        ∧ t.outbox = s.outbox ++ [okResponse .empty, okResponse (.digest (md4 m))])
  ∧ (∀ (s : State) (g : List Byte), s.halted = false → g.length = 16 →
      ∃ is t, expandLoadDigest g = some is ∧ execAll (is ++ [.format]) s = .next t
        ∧ t.outbox = s.outbox ++ [okResponse .empty, okResponse (.digest g)])
  ∧ (∀ (s : State) (p : List Byte), s.params.valid → s.halted = false → p.length % 64 = 0 → p.length / 4 ≤ s.params.pbCap →
      ∃ is t, expandCompressBytes p = some is ∧ execAll is s = .next t
        ∧ t.regs = chain s.regs (wordsOfBytes p) ∧ t.outbox = s.outbox ++ [okResponse .empty])

/-- O40. A halted engine answers HALTED to every packet, reserved headers included, and only hardware reset clears the flag.
R235. -/
def Obligations.HaltedRefusesEveryPacket : Prop :=
  (∀ (i : Instr) (s : State), i.isCommand = true → s.halted = true →
      exec i s = .next { s with outbox := s.outbox ++ [Packet.ofNat 8 4] })
  ∧ (∀ (s : State) (p : Packet) (rest : List HostEvent), s.activity = .idle → s.halted = true →
      s.inbox = .packet p :: rest → decode p ≠ .malformed →
      step s = .next { s with inbox := rest, outbox := s.outbox ++ [Packet.ofNat 8 4] })
  ∧ (∀ s t : State, s.halted = true → step s = .next t → t.halted = false →
      ∃ rest, s.inbox = .hardwareReset :: rest ∨ ∃ p, s.inbox = .packetCutByReset p :: rest)

/-- O41. A reserved opcode or nonzero reserved bits are answered ILLEGAL, whatever follows the header, and nothing changes.
R232. -/
def Obligations.ReservedHeaderAnswersIllegal : Prop :=
  ∀ (s : State) (p : Packet) (rest : List HostEvent), s.activity = .idle → s.halted = false → s.inbox = .packet p :: rest →
    8 ≤ p.len → (p.field 4 4 ≠ 0#4 ∨ p.field 0 4 = 0#4 ∨ 8 ≤ (p.field 0 4).toNat) →
    step s = .next { s with inbox := rest, outbox := s.outbox ++ [Packet.ofNat 8 3] }

/-- O42. Only a COMPRESS that fits and is not block-aligned halts the engine; PAD and DIGEST never do.
R28, R233, 60_exceptions.md section 1. -/
def Obligations.OnlyAlignSetsHalted : Prop :=
  ∀ s t : State, step s = .next t → s.halted = false → t.halted = true →
    s.activity = .idle ∧ ∃ p rest words, s.inbox = .packet p :: rest ∧ decode p = .command (.compress words)
      ∧ words.length ≤ s.params.pbCap ∧ words.length % 16 ≠ 0
      ∧ t = { s with halted := true, inbox := rest, outbox := s.outbox ++ [Packet.ofNat 8 2] }

/-- O43. A command whose response is not OK has changed nothing but HALTED, and that only for ALIGN of COMPRESS.
R230. -/
def Obligations.FaultsWriteNothing : Prop :=
  ∀ (i : Instr) (s : State), i.isCommand = true →
    ∃ t rsp, exec i s = .next t ∧ t.outbox = s.outbox ++ [rsp]
      ∧ (rsp.field 0 4 ≠ 0#4 →
          (rsp = ⟨8, 0x01#8⟩ ∨ rsp = ⟨8, 0x02#8⟩ ∨ rsp = ⟨8, 0x03#8⟩ ∨ rsp = ⟨8, 0x04#8⟩)
          ∧ t = { s with halted := t.halted, outbox := s.outbox ++ [rsp] }
          ∧ (t.halted = s.halted ∨ (t.halted = true ∧ rsp = ⟨8, 0x02#8⟩ ∧ ∃ words, i = .compress words)))

/-- O44. Every command gets exactly one response, whose header has rsv 0 and a status from 0 to 4.
R67. -/
def Obligations.EveryCommandIsAnsweredOnce : Prop :=
  ∀ (i : Instr) (s : State), i.isCommand = true →
    ∃ t rsp, exec i s = .next t ∧ t.outbox = s.outbox ++ [rsp] ∧ 8 ≤ rsp.len
      ∧ rsp.field 4 4 = 0#4 ∧ (rsp.field 0 4).toNat ≤ 4 ∧ t.inbox = s.inbox ∧ t.params = s.params

/-- O45. The invariant holds at reset (with the model's reset configuration, log 1).
R8, R35. -/
def Obligations.ResetMeetsTheInvariant : Prop :=
  State.reset.Inv

/-- O46. Every step keeps the invariant: configuration in bounds, buffers canonical and within capacity, a compression in progress in bounds.
R8, R27, R28, R33, R40, R50, R74. -/
def Obligations.StepKeepsTheInvariant : Prop :=
  ∀ s t : State, s.Inv → step s = .next t → t.Inv

/-- O47. From every state that meets the invariant, with a host that presents no malformed packet, every step answers a next state, which meets both again.
R234, R246, R271, R273. -/
def Obligations.EngineNeverStops : Prop :=
  ∀ s : State, s.Inv → (∀ e ∈ s.inbox, e.legal = true) →
    ∃ t, step s = .next t ∧ t.Inv ∧ ∀ e ∈ t.inbox, e.legal = true

/-- O48. The atomic COMPRESS and DIGEST are exactly the sequencer's 48 steps per block, run one by one by step (log 5).
R27, R54, R113, R264, 41_compression.md section 3.
The model's reading (log 5, DEDUCED): a machine step inside a compression is one step of the sequencer, and `step` does the
snapshot, the feed-forward and the advance of blk around it. -/
def Obligations.AtomicCommandIsSequencerRun : Prop :=
  (∀ (s : State) (words : List Word), s.params.valid → s.halted = false → s.inbox.head? ≠ some .hardwareReset →
      words ≠ [] → words.length % 16 = 0 → words.length ≤ s.params.pbCap →
      ∃ t, exec (.compress words) s = .next t
        ∧ Host.Core.run Sys2Proof.core (48 * (words.length / 16)) ((s.load words).beginCompression .compress) = .next t)
  ∧ (∀ (s : State) (msg : List Byte), s.params.valid → s.halted = false → s.inbox.head? ≠ some .hardwareReset →
      s.messageFits msg.length →
      ∃ t, exec (.digest msg) s = .next t
        ∧ Host.Core.run Sys2Proof.core (48 * blockCount msg.length) ((s.receive msg).frame.beginCompression .digest) = .next t)

/-- O49. No command's result depends on transient state left by an earlier command: the host cannot tell.
R34. -/
def Obligations.TransientStateIsUnobservable : Prop :=
  ∀ s u : State, s.activity = .idle → s.hostView = u.hostView → hostViewOf (step s) = hostViewOf (step u)

/-- O50. Between commands A to D hold their value: only SET_STATE, RESET_IV, COMPRESS, DIGEST and hardware reset change them.
R24, R26, R265. -/
def Obligations.WhatChangesTheRegisters : Prop :=
  ∀ s t : State, s.activity = .idle → step s = .next t → t.regs ≠ s.regs →
    (∃ rest, s.inbox = .hardwareReset :: rest) ∨ (∃ p rest, s.inbox = .packetCutByReset p :: rest)
    ∨ ∃ p rest i, s.inbox = .packet p :: rest ∧ decode p = .command i
        ∧ ((∃ a b c d, i = .setState a b c d) ∨ i = .resetIv ∨ (∃ ws, i = .compress ws) ∨ (∃ m, i = .digest m))

/-- O51. While a compression is in progress no packet is accepted, and its end delivers exactly one response (log 5).
R54, R60, R263.
The model's reading (log 5, DEDUCED): a machine step inside a compression is one step of the sequencer. -/
def Obligations.NothingIsAcceptedDuringACompression : Prop :=
  ∀ (s t : State) (c : Caller), s.activity = .compressing c → s.inbox.head? ≠ some .hardwareReset → step s = .next t →
    t.inbox = s.inbox ∧ t.params = s.params ∧ t.halted = s.halted
    ∧ ((t.activity = .compressing c ∧ t.outbox = s.outbox)
        ∨ (t.activity = .idle ∧ ∃ rsp, t.outbox = s.outbox ++ [rsp] ∧ rsp.field 0 8 = 0#8))

/-- O52. No step writes the configuration, and the responses already delivered stay (log 10; over a hardware reset log 7).
R22, R57, R60, R67, R260.
R22 and R57 give the configuration, R60 and R67 the one response of a command. The model's choice: the responses are a list in
the state (log 10, DESIGN CHOICE), and a hardware reset leaves them and the configuration (log 7, DESIGN CHOICE). -/
def Obligations.ConfigurationNeverChanges : Prop :=
  ∀ s t : State, step s = .next t →
    t.params = s.params ∧ (t.outbox = s.outbox ∨ ∃ rsp, t.outbox = s.outbox ++ [rsp])
end

