-- ==== Sys2Proof/Laws/State.lean ====
section
/-! SUPPORT. One lemma for each field and each operation that builds a new state. -/

namespace Sys2Proof.Machine

/-! `receive` -/

@[simp] theorem State.receive_params (s : State) (msg : List Byte) : (s.receive msg).params = s.params := rfl
@[simp] theorem State.receive_regs (s : State) (msg : List Byte) : (s.receive msg).regs = s.regs := rfl
@[simp] theorem State.receive_halted (s : State) (msg : List Byte) : (s.receive msg).halted = s.halted := rfl
@[simp] theorem State.receive_snap (s : State) (msg : List Byte) : (s.receive msg).snap = s.snap := rfl
@[simp] theorem State.receive_mb (s : State) (msg : List Byte) : (s.receive msg).mb = Buffer.fill [] 0 msg := rfl
@[simp] theorem State.receive_pb (s : State) (msg : List Byte) : (s.receive msg).pb = s.pb := rfl
@[simp] theorem State.receive_len (s : State) (msg : List Byte) : (s.receive msg).len = BitVec.ofNat 64 msg.length := rfl
@[simp] theorem State.receive_wcnt (s : State) (msg : List Byte) : (s.receive msg).wcnt = s.wcnt := rfl
@[simp] theorem State.receive_blk (s : State) (msg : List Byte) : (s.receive msg).blk = s.blk := rfl
@[simp] theorem State.receive_t (s : State) (msg : List Byte) : (s.receive msg).t = s.t := rfl
@[simp] theorem State.receive_activity (s : State) (msg : List Byte) : (s.receive msg).activity = s.activity := rfl
@[simp] theorem State.receive_inbox (s : State) (msg : List Byte) : (s.receive msg).inbox = s.inbox := rfl
@[simp] theorem State.receive_outbox (s : State) (msg : List Byte) : (s.receive msg).outbox = s.outbox := rfl
@[simp] theorem State.receive_epoch (s : State) (msg : List Byte) : (s.receive msg).epoch = s.epoch := rfl

/-! `load` -/

@[simp] theorem State.load_params (s : State) (words : List Word) : (s.load words).params = s.params := rfl
@[simp] theorem State.load_regs (s : State) (words : List Word) : (s.load words).regs = s.regs := rfl
@[simp] theorem State.load_halted (s : State) (words : List Word) : (s.load words).halted = s.halted := rfl
@[simp] theorem State.load_snap (s : State) (words : List Word) : (s.load words).snap = s.snap := rfl
@[simp] theorem State.load_mb (s : State) (words : List Word) : (s.load words).mb = s.mb := rfl
@[simp] theorem State.load_pb (s : State) (words : List Word) : (s.load words).pb = Buffer.fill [] 0 words := rfl
@[simp] theorem State.load_len (s : State) (words : List Word) : (s.load words).len = s.len := rfl
@[simp] theorem State.load_wcnt (s : State) (words : List Word) : (s.load words).wcnt = BitVec.ofNat 32 words.length := rfl
@[simp] theorem State.load_blk (s : State) (words : List Word) : (s.load words).blk = s.blk := rfl
@[simp] theorem State.load_t (s : State) (words : List Word) : (s.load words).t = s.t := rfl
@[simp] theorem State.load_activity (s : State) (words : List Word) : (s.load words).activity = s.activity := rfl
@[simp] theorem State.load_inbox (s : State) (words : List Word) : (s.load words).inbox = s.inbox := rfl
@[simp] theorem State.load_outbox (s : State) (words : List Word) : (s.load words).outbox = s.outbox := rfl
@[simp] theorem State.load_epoch (s : State) (words : List Word) : (s.load words).epoch = s.epoch := rfl

/-! `frame` -/

@[simp] theorem State.frame_params (s : State) : (s.frame).params = s.params := rfl
@[simp] theorem State.frame_regs (s : State) : (s.frame).regs = s.regs := rfl
@[simp] theorem State.frame_halted (s : State) : (s.frame).halted = s.halted := rfl
@[simp] theorem State.frame_snap (s : State) : (s.frame).snap = s.snap := rfl
@[simp] theorem State.frame_mb (s : State) : (s.frame).mb = s.mb := rfl
@[simp] theorem State.frame_pb (s : State) : (s.frame).pb = Buffer.fill [] 0 s.framedWords := rfl
@[simp] theorem State.frame_len (s : State) : (s.frame).len = s.len := rfl
@[simp] theorem State.frame_wcnt (s : State) : (s.frame).wcnt = BitVec.ofNat 32 s.framedWords.length := rfl
@[simp] theorem State.frame_blk (s : State) : (s.frame).blk = s.blk := rfl
@[simp] theorem State.frame_t (s : State) : (s.frame).t = s.t := rfl
@[simp] theorem State.frame_activity (s : State) : (s.frame).activity = s.activity := rfl
@[simp] theorem State.frame_inbox (s : State) : (s.frame).inbox = s.inbox := rfl
@[simp] theorem State.frame_outbox (s : State) : (s.frame).outbox = s.outbox := rfl
@[simp] theorem State.frame_epoch (s : State) : (s.frame).epoch = s.epoch := rfl

/-! `deliver` -/

@[simp] theorem State.deliver_params (s : State) (rsp : Packet) : (s.deliver rsp).params = s.params := rfl
@[simp] theorem State.deliver_regs (s : State) (rsp : Packet) : (s.deliver rsp).regs = s.regs := rfl
@[simp] theorem State.deliver_halted (s : State) (rsp : Packet) : (s.deliver rsp).halted = s.halted := rfl
@[simp] theorem State.deliver_snap (s : State) (rsp : Packet) : (s.deliver rsp).snap = s.snap := rfl
@[simp] theorem State.deliver_mb (s : State) (rsp : Packet) : (s.deliver rsp).mb = s.mb := rfl
@[simp] theorem State.deliver_pb (s : State) (rsp : Packet) : (s.deliver rsp).pb = s.pb := rfl
@[simp] theorem State.deliver_len (s : State) (rsp : Packet) : (s.deliver rsp).len = s.len := rfl
@[simp] theorem State.deliver_wcnt (s : State) (rsp : Packet) : (s.deliver rsp).wcnt = s.wcnt := rfl
@[simp] theorem State.deliver_blk (s : State) (rsp : Packet) : (s.deliver rsp).blk = s.blk := rfl
@[simp] theorem State.deliver_t (s : State) (rsp : Packet) : (s.deliver rsp).t = s.t := rfl
@[simp] theorem State.deliver_activity (s : State) (rsp : Packet) : (s.deliver rsp).activity = s.activity := rfl
@[simp] theorem State.deliver_inbox (s : State) (rsp : Packet) : (s.deliver rsp).inbox = s.inbox := rfl
@[simp] theorem State.deliver_outbox (s : State) (rsp : Packet) : (s.deliver rsp).outbox = s.outbox ++ [rsp] := rfl
@[simp] theorem State.deliver_epoch (s : State) (rsp : Packet) : (s.deliver rsp).epoch = s.epoch := rfl

/-! `respond` -/

@[simp] theorem State.respond_params (s : State) (p : Payload) : (s.respond p).params = s.params := rfl
@[simp] theorem State.respond_regs (s : State) (p : Payload) : (s.respond p).regs = s.regs := rfl
@[simp] theorem State.respond_halted (s : State) (p : Payload) : (s.respond p).halted = s.halted := rfl
@[simp] theorem State.respond_snap (s : State) (p : Payload) : (s.respond p).snap = s.snap := rfl
@[simp] theorem State.respond_mb (s : State) (p : Payload) : (s.respond p).mb = s.mb := rfl
@[simp] theorem State.respond_pb (s : State) (p : Payload) : (s.respond p).pb = s.pb := rfl
@[simp] theorem State.respond_len (s : State) (p : Payload) : (s.respond p).len = s.len := rfl
@[simp] theorem State.respond_wcnt (s : State) (p : Payload) : (s.respond p).wcnt = s.wcnt := rfl
@[simp] theorem State.respond_blk (s : State) (p : Payload) : (s.respond p).blk = s.blk := rfl
@[simp] theorem State.respond_t (s : State) (p : Payload) : (s.respond p).t = s.t := rfl
@[simp] theorem State.respond_activity (s : State) (p : Payload) : (s.respond p).activity = s.activity := rfl
@[simp] theorem State.respond_inbox (s : State) (p : Payload) : (s.respond p).inbox = s.inbox := rfl
@[simp] theorem State.respond_outbox (s : State) (p : Payload) : (s.respond p).outbox = s.outbox ++ [okResponse p] := rfl
@[simp] theorem State.respond_epoch (s : State) (p : Payload) : (s.respond p).epoch = s.epoch := rfl

/-! `raise` -/

@[simp] theorem State.raise_params (s : State) (f : FaultCode) : (s.raise f).params = s.params := rfl
@[simp] theorem State.raise_regs (s : State) (f : FaultCode) : (s.raise f).regs = s.regs := rfl
@[simp] theorem State.raise_halted (s : State) (f : FaultCode) : (s.raise f).halted = haltedAfter f s.halted := rfl
@[simp] theorem State.raise_snap (s : State) (f : FaultCode) : (s.raise f).snap = s.snap := rfl
@[simp] theorem State.raise_mb (s : State) (f : FaultCode) : (s.raise f).mb = s.mb := rfl
@[simp] theorem State.raise_pb (s : State) (f : FaultCode) : (s.raise f).pb = s.pb := rfl
@[simp] theorem State.raise_len (s : State) (f : FaultCode) : (s.raise f).len = s.len := rfl
@[simp] theorem State.raise_wcnt (s : State) (f : FaultCode) : (s.raise f).wcnt = s.wcnt := rfl
@[simp] theorem State.raise_blk (s : State) (f : FaultCode) : (s.raise f).blk = s.blk := rfl
@[simp] theorem State.raise_t (s : State) (f : FaultCode) : (s.raise f).t = s.t := rfl
@[simp] theorem State.raise_activity (s : State) (f : FaultCode) : (s.raise f).activity = s.activity := rfl
@[simp] theorem State.raise_inbox (s : State) (f : FaultCode) : (s.raise f).inbox = s.inbox := rfl
@[simp] theorem State.raise_outbox (s : State) (f : FaultCode) : (s.raise f).outbox = s.outbox ++ [faultResponse f] := rfl
@[simp] theorem State.raise_epoch (s : State) (f : FaultCode) : (s.raise f).epoch = s.epoch := rfl

/-! `release` -/

@[simp] theorem State.release_params (s : State) : (s.release).params = s.params := rfl
@[simp] theorem State.release_regs (s : State) : (s.release).regs = s.regs := rfl
@[simp] theorem State.release_halted (s : State) : (s.release).halted = s.halted := rfl
@[simp] theorem State.release_snap (s : State) : (s.release).snap = freeSnapshot (s.epoch + 1) := rfl
@[simp] theorem State.release_mb (s : State) : (s.release).mb = [] := rfl
@[simp] theorem State.release_pb (s : State) : (s.release).pb = [] := rfl
@[simp] theorem State.release_len (s : State) : (s.release).len = Config.freeLen (s.epoch + 1) := rfl
@[simp] theorem State.release_wcnt (s : State) : (s.release).wcnt = Config.freeWcnt (s.epoch + 1) := rfl
@[simp] theorem State.release_blk (s : State) : (s.release).blk = Config.freeBlk (s.epoch + 1) := rfl
@[simp] theorem State.release_t (s : State) : (s.release).t = Config.freeT (s.epoch + 1) := rfl
@[simp] theorem State.release_activity (s : State) : (s.release).activity = .idle := rfl
@[simp] theorem State.release_inbox (s : State) : (s.release).inbox = s.inbox := rfl
@[simp] theorem State.release_outbox (s : State) : (s.release).outbox = s.outbox := rfl
@[simp] theorem State.release_epoch (s : State) : (s.release).epoch = s.epoch + 1 := rfl

/-! `hardwareReset` -/

@[simp] theorem State.hardwareReset_params (s : State) : (s.hardwareReset).params = s.params := rfl
@[simp] theorem State.hardwareReset_regs (s : State) : (s.hardwareReset).regs = Config.iv := rfl
@[simp] theorem State.hardwareReset_halted (s : State) : (s.hardwareReset).halted = false := rfl
@[simp] theorem State.hardwareReset_snap (s : State) : (s.hardwareReset).snap = { a := 0#32, b := 0#32, c := 0#32, d := 0#32 } := rfl
@[simp] theorem State.hardwareReset_mb (s : State) : (s.hardwareReset).mb = [] := rfl
@[simp] theorem State.hardwareReset_pb (s : State) : (s.hardwareReset).pb = [] := rfl
@[simp] theorem State.hardwareReset_len (s : State) : (s.hardwareReset).len = 0#64 := rfl
@[simp] theorem State.hardwareReset_wcnt (s : State) : (s.hardwareReset).wcnt = 0#32 := rfl
@[simp] theorem State.hardwareReset_blk (s : State) : (s.hardwareReset).blk = 0#28 := rfl
@[simp] theorem State.hardwareReset_t (s : State) : (s.hardwareReset).t = 0#6 := rfl
@[simp] theorem State.hardwareReset_activity (s : State) : (s.hardwareReset).activity = .idle := rfl
@[simp] theorem State.hardwareReset_inbox (s : State) : (s.hardwareReset).inbox = s.inbox := rfl
@[simp] theorem State.hardwareReset_outbox (s : State) : (s.hardwareReset).outbox = s.outbox := rfl
@[simp] theorem State.hardwareReset_epoch (s : State) : (s.hardwareReset).epoch = s.epoch + 1 := rfl

/-! `setRegs` -/

@[simp] theorem State.setRegs_params (s : State) (r : Regs) : (s.setRegs r).params = s.params := rfl
@[simp] theorem State.setRegs_regs (s : State) (r : Regs) : (s.setRegs r).regs = r := rfl
@[simp] theorem State.setRegs_halted (s : State) (r : Regs) : (s.setRegs r).halted = s.halted := rfl
@[simp] theorem State.setRegs_snap (s : State) (r : Regs) : (s.setRegs r).snap = s.snap := rfl
@[simp] theorem State.setRegs_mb (s : State) (r : Regs) : (s.setRegs r).mb = s.mb := rfl
@[simp] theorem State.setRegs_pb (s : State) (r : Regs) : (s.setRegs r).pb = s.pb := rfl
@[simp] theorem State.setRegs_len (s : State) (r : Regs) : (s.setRegs r).len = s.len := rfl
@[simp] theorem State.setRegs_wcnt (s : State) (r : Regs) : (s.setRegs r).wcnt = s.wcnt := rfl
@[simp] theorem State.setRegs_blk (s : State) (r : Regs) : (s.setRegs r).blk = s.blk := rfl
@[simp] theorem State.setRegs_t (s : State) (r : Regs) : (s.setRegs r).t = s.t := rfl
@[simp] theorem State.setRegs_activity (s : State) (r : Regs) : (s.setRegs r).activity = s.activity := rfl
@[simp] theorem State.setRegs_inbox (s : State) (r : Regs) : (s.setRegs r).inbox = s.inbox := rfl
@[simp] theorem State.setRegs_outbox (s : State) (r : Regs) : (s.setRegs r).outbox = s.outbox := rfl
@[simp] theorem State.setRegs_epoch (s : State) (r : Regs) : (s.setRegs r).epoch = s.epoch := rfl

/-! `startBlock` -/

@[simp] theorem State.startBlock_params (s : State) : (s.startBlock).params = s.params := rfl
@[simp] theorem State.startBlock_regs (s : State) : (s.startBlock).regs = s.regs := rfl
@[simp] theorem State.startBlock_halted (s : State) : (s.startBlock).halted = s.halted := rfl
@[simp] theorem State.startBlock_snap (s : State) : (s.startBlock).snap = s.regs := rfl
@[simp] theorem State.startBlock_mb (s : State) : (s.startBlock).mb = s.mb := rfl
@[simp] theorem State.startBlock_pb (s : State) : (s.startBlock).pb = s.pb := rfl
@[simp] theorem State.startBlock_len (s : State) : (s.startBlock).len = s.len := rfl
@[simp] theorem State.startBlock_wcnt (s : State) : (s.startBlock).wcnt = s.wcnt := rfl
@[simp] theorem State.startBlock_blk (s : State) : (s.startBlock).blk = s.blk := rfl
@[simp] theorem State.startBlock_t (s : State) : (s.startBlock).t = 0#6 := rfl
@[simp] theorem State.startBlock_activity (s : State) : (s.startBlock).activity = s.activity := rfl
@[simp] theorem State.startBlock_inbox (s : State) : (s.startBlock).inbox = s.inbox := rfl
@[simp] theorem State.startBlock_outbox (s : State) : (s.startBlock).outbox = s.outbox := rfl
@[simp] theorem State.startBlock_epoch (s : State) : (s.startBlock).epoch = s.epoch := rfl

/-! `feedForward` -/

@[simp] theorem State.feedForward_params (s : State) : (s.feedForward).params = s.params := rfl
@[simp] theorem State.feedForward_regs (s : State) : (s.feedForward).regs = addRegs s.regs s.snap := rfl
@[simp] theorem State.feedForward_halted (s : State) : (s.feedForward).halted = s.halted := rfl
@[simp] theorem State.feedForward_snap (s : State) : (s.feedForward).snap = s.snap := rfl
@[simp] theorem State.feedForward_mb (s : State) : (s.feedForward).mb = s.mb := rfl
@[simp] theorem State.feedForward_pb (s : State) : (s.feedForward).pb = s.pb := rfl
@[simp] theorem State.feedForward_len (s : State) : (s.feedForward).len = s.len := rfl
@[simp] theorem State.feedForward_wcnt (s : State) : (s.feedForward).wcnt = s.wcnt := rfl
@[simp] theorem State.feedForward_blk (s : State) : (s.feedForward).blk = s.blk + 1#28 := rfl
@[simp] theorem State.feedForward_t (s : State) : (s.feedForward).t = s.t := rfl
@[simp] theorem State.feedForward_activity (s : State) : (s.feedForward).activity = s.activity := rfl
@[simp] theorem State.feedForward_inbox (s : State) : (s.feedForward).inbox = s.inbox := rfl
@[simp] theorem State.feedForward_outbox (s : State) : (s.feedForward).outbox = s.outbox := rfl
@[simp] theorem State.feedForward_epoch (s : State) : (s.feedForward).epoch = s.epoch := rfl

/-! `beginCompression` -/

@[simp] theorem State.beginCompression_params (s : State) (c : Caller) : (s.beginCompression c).params = s.params := rfl
@[simp] theorem State.beginCompression_regs (s : State) (c : Caller) : (s.beginCompression c).regs = s.regs := rfl
@[simp] theorem State.beginCompression_halted (s : State) (c : Caller) : (s.beginCompression c).halted = s.halted := rfl
@[simp] theorem State.beginCompression_snap (s : State) (c : Caller) : (s.beginCompression c).snap = s.regs := rfl
@[simp] theorem State.beginCompression_mb (s : State) (c : Caller) : (s.beginCompression c).mb = s.mb := rfl
@[simp] theorem State.beginCompression_pb (s : State) (c : Caller) : (s.beginCompression c).pb = s.pb := rfl
@[simp] theorem State.beginCompression_len (s : State) (c : Caller) : (s.beginCompression c).len = s.len := rfl
@[simp] theorem State.beginCompression_wcnt (s : State) (c : Caller) : (s.beginCompression c).wcnt = s.wcnt := rfl
@[simp] theorem State.beginCompression_blk (s : State) (c : Caller) : (s.beginCompression c).blk = 0#28 := rfl
@[simp] theorem State.beginCompression_t (s : State) (c : Caller) : (s.beginCompression c).t = 0#6 := rfl
@[simp] theorem State.beginCompression_activity (s : State) (c : Caller) : (s.beginCompression c).activity = .compressing c := rfl
@[simp] theorem State.beginCompression_inbox (s : State) (c : Caller) : (s.beginCompression c).inbox = s.inbox := rfl
@[simp] theorem State.beginCompression_outbox (s : State) (c : Caller) : (s.beginCompression c).outbox = s.outbox := rfl
@[simp] theorem State.beginCompression_epoch (s : State) (c : Caller) : (s.beginCompression c).epoch = s.epoch := rfl

/-! `finishCompress` -/

@[simp] theorem State.finishCompress_params (s : State) : (s.finishCompress).params = s.params := rfl
@[simp] theorem State.finishCompress_regs (s : State) : (s.finishCompress).regs = s.regs := rfl
@[simp] theorem State.finishCompress_halted (s : State) : (s.finishCompress).halted = s.halted := rfl
@[simp] theorem State.finishCompress_snap (s : State) : (s.finishCompress).snap = freeSnapshot (s.epoch + 1) := rfl
@[simp] theorem State.finishCompress_mb (s : State) : (s.finishCompress).mb = [] := rfl
@[simp] theorem State.finishCompress_pb (s : State) : (s.finishCompress).pb = [] := rfl
@[simp] theorem State.finishCompress_len (s : State) : (s.finishCompress).len = Config.freeLen (s.epoch + 1) := rfl
@[simp] theorem State.finishCompress_wcnt (s : State) : (s.finishCompress).wcnt = Config.freeWcnt (s.epoch + 1) := rfl
@[simp] theorem State.finishCompress_blk (s : State) : (s.finishCompress).blk = Config.freeBlk (s.epoch + 1) := rfl
@[simp] theorem State.finishCompress_t (s : State) : (s.finishCompress).t = Config.freeT (s.epoch + 1) := rfl
@[simp] theorem State.finishCompress_activity (s : State) : (s.finishCompress).activity = .idle := rfl
@[simp] theorem State.finishCompress_inbox (s : State) : (s.finishCompress).inbox = s.inbox := rfl
@[simp] theorem State.finishCompress_outbox (s : State) : (s.finishCompress).outbox = s.outbox ++ [okResponse .empty] := rfl
@[simp] theorem State.finishCompress_epoch (s : State) : (s.finishCompress).epoch = s.epoch + 1 := rfl

/-! `finishDigest` -/

@[simp] theorem State.finishDigest_params (s : State) : (s.finishDigest).params = s.params := rfl
@[simp] theorem State.finishDigest_regs (s : State) : (s.finishDigest).regs = Config.iv := rfl
@[simp] theorem State.finishDigest_halted (s : State) : (s.finishDigest).halted = s.halted := rfl
@[simp] theorem State.finishDigest_snap (s : State) : (s.finishDigest).snap = freeSnapshot (s.epoch + 1) := rfl
@[simp] theorem State.finishDigest_mb (s : State) : (s.finishDigest).mb = [] := rfl
@[simp] theorem State.finishDigest_pb (s : State) : (s.finishDigest).pb = [] := rfl
@[simp] theorem State.finishDigest_len (s : State) : (s.finishDigest).len = Config.freeLen (s.epoch + 1) := rfl
@[simp] theorem State.finishDigest_wcnt (s : State) : (s.finishDigest).wcnt = Config.freeWcnt (s.epoch + 1) := rfl
@[simp] theorem State.finishDigest_blk (s : State) : (s.finishDigest).blk = Config.freeBlk (s.epoch + 1) := rfl
@[simp] theorem State.finishDigest_t (s : State) : (s.finishDigest).t = Config.freeT (s.epoch + 1) := rfl
@[simp] theorem State.finishDigest_activity (s : State) : (s.finishDigest).activity = .idle := rfl
@[simp] theorem State.finishDigest_inbox (s : State) : (s.finishDigest).inbox = s.inbox := rfl
@[simp] theorem State.finishDigest_outbox (s : State) : (s.finishDigest).outbox = s.outbox ++ [okResponse (.digest (formatDigest s.regs))] := rfl
@[simp] theorem State.finishDigest_epoch (s : State) : (s.finishDigest).epoch = s.epoch + 1 := rfl

/-! `roundStep` -/

@[simp] theorem State.roundStep_params (s : State) (ra rb rc rd : Reg) (f : Word → Word → Word → Word) (k : Nat) (K : Word) (sh : Nat) (n : BitVec 6) :
    (s.roundStep ra rb rc rd f k K sh n).params = s.params := rfl
@[simp] theorem State.roundStep_regs (s : State) (ra rb rc rd : Reg) (f : Word → Word → Word → Word) (k : Nat) (K : Word) (sh : Nat) (n : BitVec 6) :
    (s.roundStep ra rb rc rd f k K sh n).regs = writeReg s.regs ra
      (stepValue f (readReg s.regs ra) (readReg s.regs rb) (readReg s.regs rc) (readReg s.regs rd) (s.blockWord k) K sh) := rfl
@[simp] theorem State.roundStep_halted (s : State) (ra rb rc rd : Reg) (f : Word → Word → Word → Word) (k : Nat) (K : Word) (sh : Nat) (n : BitVec 6) :
    (s.roundStep ra rb rc rd f k K sh n).halted = s.halted := rfl
@[simp] theorem State.roundStep_snap (s : State) (ra rb rc rd : Reg) (f : Word → Word → Word → Word) (k : Nat) (K : Word) (sh : Nat) (n : BitVec 6) :
    (s.roundStep ra rb rc rd f k K sh n).snap = s.snap := rfl
@[simp] theorem State.roundStep_mb (s : State) (ra rb rc rd : Reg) (f : Word → Word → Word → Word) (k : Nat) (K : Word) (sh : Nat) (n : BitVec 6) :
    (s.roundStep ra rb rc rd f k K sh n).mb = s.mb := rfl
@[simp] theorem State.roundStep_pb (s : State) (ra rb rc rd : Reg) (f : Word → Word → Word → Word) (k : Nat) (K : Word) (sh : Nat) (n : BitVec 6) :
    (s.roundStep ra rb rc rd f k K sh n).pb = s.pb := rfl
@[simp] theorem State.roundStep_len (s : State) (ra rb rc rd : Reg) (f : Word → Word → Word → Word) (k : Nat) (K : Word) (sh : Nat) (n : BitVec 6) :
    (s.roundStep ra rb rc rd f k K sh n).len = s.len := rfl
@[simp] theorem State.roundStep_wcnt (s : State) (ra rb rc rd : Reg) (f : Word → Word → Word → Word) (k : Nat) (K : Word) (sh : Nat) (n : BitVec 6) :
    (s.roundStep ra rb rc rd f k K sh n).wcnt = s.wcnt := rfl
@[simp] theorem State.roundStep_blk (s : State) (ra rb rc rd : Reg) (f : Word → Word → Word → Word) (k : Nat) (K : Word) (sh : Nat) (n : BitVec 6) :
    (s.roundStep ra rb rc rd f k K sh n).blk = s.blk := rfl
@[simp] theorem State.roundStep_t (s : State) (ra rb rc rd : Reg) (f : Word → Word → Word → Word) (k : Nat) (K : Word) (sh : Nat) (n : BitVec 6) :
    (s.roundStep ra rb rc rd f k K sh n).t = n := rfl
@[simp] theorem State.roundStep_activity (s : State) (ra rb rc rd : Reg) (f : Word → Word → Word → Word) (k : Nat) (K : Word) (sh : Nat) (n : BitVec 6) :
    (s.roundStep ra rb rc rd f k K sh n).activity = s.activity := rfl
@[simp] theorem State.roundStep_inbox (s : State) (ra rb rc rd : Reg) (f : Word → Word → Word → Word) (k : Nat) (K : Word) (sh : Nat) (n : BitVec 6) :
    (s.roundStep ra rb rc rd f k K sh n).inbox = s.inbox := rfl
@[simp] theorem State.roundStep_outbox (s : State) (ra rb rc rd : Reg) (f : Word → Word → Word → Word) (k : Nat) (K : Word) (sh : Nat) (n : BitVec 6) :
    (s.roundStep ra rb rc rd f k K sh n).outbox = s.outbox := rfl
@[simp] theorem State.roundStep_epoch (s : State) (ra rb rc rd : Reg) (f : Word → Word → Word → Word) (k : Nat) (K : Word) (sh : Nat) (n : BitVec 6) :
    (s.roundStep ra rb rc rd f k K sh n).epoch = s.epoch := rfl

/-! Registers by name -/

@[simp] theorem readReg_writeReg_same (r : Regs) (n : Reg) (v : Word) : readReg (writeReg r n v) n = v := by
  cases n <;> rfl

theorem readReg_writeReg_of_ne (r : Regs) {n m : Reg} (v : Word) (h : m ≠ n) :
    readReg (writeReg r n v) m = readReg r m := by
  cases n <;> cases m <;> first | rfl | exact absurd rfl h

end Sys2Proof.Machine
end

