-- ==== Sys2Proof/Laws/Blocks.lean ====
section
/-! SUPPORT. What steps, blocks and compressions leave unchanged. -/

namespace Sys2Proof.Machine

/-- A register update that leaves everything but the registers and `t` alone. -/
abbrev StepLike (f : State → State) : Prop := ∀ s, ∃ r n, f s = { s with regs := r, t := n }

theorem roundStep_stepLike (ra rb rc rd : Reg) (f : Word → Word → Word → Word) (k : Nat) (K : Word) (sh : Nat)
    (n : State → BitVec 6) : StepLike fun s => s.roundStep ra rb rc rd f k K sh (n s) :=
  fun _ => ⟨_, _, rfl⟩

/-- Each of the 48 steps is one. -/
theorem stepSequence_stepLike : ∀ f ∈ stepSequence, StepLike f := by
  intro f hf s
  simp only [stepSequence, List.mem_cons, List.not_mem_nil, or_false] at hf
  rcases hf with rfl | rfl | rfl | rfl | rfl | rfl | rfl | rfl | rfl | rfl | rfl | rfl | rfl | rfl | rfl | rfl
    | rfl | rfl | rfl | rfl | rfl | rfl | rfl | rfl | rfl | rfl | rfl | rfl | rfl | rfl | rfl | rfl
    | rfl | rfl | rfl | rfl | rfl | rfl | rfl | rfl | rfl | rfl | rfl | rfl | rfl | rfl | rfl | rfl <;> exact ⟨_, _, rfl⟩

@[simp] theorem stepSequence_length : stepSequence.length = 48 := rfl

/-- The instruction the sequencer selects at `n` runs the step at place `n` of the sequence. -/
theorem exec_decodeStep (n : Nat) (h : n < 48) (s : State) :
    ∃ i, decodeStep (BitVec.ofNat 6 n) = some i ∧ exec i s = .next (stepSequence.getD n id s) := by
  interval_cases n <;> exact ⟨_, rfl, rfl⟩

/-- The sequencer selects no step exactly outside 0 to 47. -/
theorem decodeStep_isSome (t : BitVec 6) : (decodeStep t).isSome = decide (t.toNat < 48) := by
  revert t; decide

theorem foldl_stepLike (l : List (State → State)) (h : ∀ f ∈ l, StepLike f) :
    StepLike fun s => l.foldl (fun s f => f s) s := by
  induction l with
  | nil => exact fun s => ⟨s.regs, s.t, rfl⟩
  | cons f l ih =>
    intro s
    obtain ⟨r, n, e⟩ := h f List.mem_cons_self s
    obtain ⟨r', n', (e' : List.foldl (fun s f => f s) (f s) l = _)⟩ := ih (fun g hg => h g (List.mem_cons_of_mem _ hg)) (f s)
    refine ⟨r', n', ?_⟩
    show List.foldl (fun s f => f s) (f s) l = _
    rw [e', e]

/-- The 48 steps change the registers and `t`, and nothing else. -/
theorem State.runSteps_stepLike : StepLike State.runSteps := foldl_stepLike _ stepSequence_stepLike

/-- A block changes the registers, the snapshot and the sequencer, and nothing else. -/
theorem State.compressBlock_frame (s : State) :
    ∃ r t, s.compressBlock = { s with regs := r, snap := s.regs, t := t, blk := s.blk + 1#28 } := by
  obtain ⟨r, n, e⟩ := State.runSteps_stepLike s.startBlock
  exact ⟨_, _, by rw [State.compressBlock, e]; rfl⟩

@[simp] theorem State.compressBlocks_zero (s : State) : State.compressBlocks 0 s = s := rfl

theorem State.compressBlocks_succ (n : Nat) (s : State) :
    State.compressBlocks (n + 1) s = State.compressBlocks n s.compressBlock :=
  Function.iterate_succ_apply State.compressBlock n s

theorem State.compressBlocks_succ' (n : Nat) (s : State) :
    State.compressBlocks (n + 1) s = (State.compressBlocks n s).compressBlock :=
  Function.iterate_succ_apply' State.compressBlock n s

/-- `n` blocks change the registers, the snapshot and the sequencer, and nothing else. -/
theorem State.compressBlocks_frame (n : Nat) (s : State) :
    ∃ r q t b, State.compressBlocks n s = { s with regs := r, snap := q, t := t, blk := b } := by
  induction n generalizing s with
  | zero => exact ⟨_, _, _, _, rfl⟩
  | succ n ih =>
    obtain ⟨r, t, e⟩ := s.compressBlock_frame
    obtain ⟨r', q', t', b', e'⟩ := ih s.compressBlock
    exact ⟨r', q', t', b', by rw [State.compressBlocks_succ, e', e]⟩

/-- A compression changes the registers, the snapshot and the sequencer, and nothing else. -/
theorem State.compressAll_frame (s : State) :
    ∃ r q t b, s.compressAll = { s with regs := r, snap := q, t := t, blk := b } := by
  obtain ⟨r, q, t, b, e⟩ := State.compressBlocks_frame s.blocks { s with blk := 0#28 }
  exact ⟨r, q, t, b, by rw [State.compressAll, e]⟩

@[simp] theorem State.compressAll_params (s : State) : s.compressAll.params = s.params := by
  obtain ⟨_, _, _, _, e⟩ := s.compressAll_frame; rw [e]

@[simp] theorem State.compressAll_halted (s : State) : s.compressAll.halted = s.halted := by
  obtain ⟨_, _, _, _, e⟩ := s.compressAll_frame; rw [e]

@[simp] theorem State.compressAll_inbox (s : State) : s.compressAll.inbox = s.inbox := by
  obtain ⟨_, _, _, _, e⟩ := s.compressAll_frame; rw [e]

@[simp] theorem State.compressAll_outbox (s : State) : s.compressAll.outbox = s.outbox := by
  obtain ⟨_, _, _, _, e⟩ := s.compressAll_frame; rw [e]

@[simp] theorem State.compressAll_epoch (s : State) : s.compressAll.epoch = s.epoch := by
  obtain ⟨_, _, _, _, e⟩ := s.compressAll_frame; rw [e]

/-- The registers of a step by its roles (R111): what `applyRow` says of them. -/
theorem State.roundStep_applyRow (s : State) (row : StepRow) (n : BitVec 6) :
    (s.roundStep row.ra row.rb row.rc row.rd row.f row.k row.K row.s n).regs = applyRow row s.blockWord s.regs := rfl

end Sys2Proof.Machine
end

