-- ==== Sys2Proof/Laws/Buffer.lean ====
section
/-! SUPPORT. The buffers: reading after writing, and the canonical form, which every operation keeps. -/

namespace Sys2Proof.Machine

variable {w : Nat}

@[simp] theorem Buffer.find_nil (i : Nat) : Buffer.find ([] : Buffer w) i = none := rfl

theorem Buffer.find_write_same (m : Buffer w) (i : Nat) (v : BitVec w) :
    Buffer.find (Buffer.write m i v) i = some v := by
  induction m with
  | nil => simp [Buffer.write, Buffer.find]
  | cons e m ih =>
    obtain ⟨j, u⟩ := e
    simp only [Buffer.write]
    split
    · simp [Buffer.find]
    · split
      · simp [Buffer.find]
      · rename_i h; simp [Buffer.find, h, ih]

theorem Buffer.find_write_of_ne (m : Buffer w) {i k : Nat} (v : BitVec w) (h : k ≠ i) :
    Buffer.find (Buffer.write m i v) k = Buffer.find m k := by
  induction m with
  | nil => simp [Buffer.write, Buffer.find, h]
  | cons e m ih =>
    obtain ⟨j, u⟩ := e
    simp only [Buffer.write]
    split
    · simp [Buffer.find, h]
    · split
      · subst i; simp [Buffer.find, h]
      · simp [Buffer.find, ih]

/-- The indices a write can list: the one written, and those listed before. -/
theorem Buffer.mem_write {m : Buffer w} {i : Nat} {v : BitVec w} {e : Nat × BitVec w}
    (h : e ∈ Buffer.write m i v) : e.1 = i ∨ e ∈ m := by
  induction m with
  | nil => simp [Buffer.write] at h; exact .inl (by rw [h])
  | cons x m ih =>
    obtain ⟨j, u⟩ := x
    simp only [Buffer.write] at h
    split at h
    · rcases List.mem_cons.1 h with rfl | h
      · exact .inl rfl
      · exact .inr h
    · split at h
      · rcases List.mem_cons.1 h with rfl | h
        · exact .inl rfl
        · exact .inr (List.mem_cons_of_mem _ h)
      · rcases List.mem_cons.1 h with rfl | h
        · exact .inr List.mem_cons_self
        · exact (ih h).imp id (List.mem_cons_of_mem _)

/-- A write keeps the canonical form. -/
theorem Buffer.write_wf {m : Buffer w} (h : Buffer.wf m) (i : Nat) (v : BitVec w) : Buffer.wf (Buffer.write m i v) := by
  induction m with
  | nil => simp [Buffer.write, Buffer.wf]
  | cons x m ih =>
    obtain ⟨j, u⟩ := x
    obtain ⟨hj, hm⟩ := List.pairwise_cons.1 h
    simp only [List.mem_map, forall_exists_index, and_imp, forall_apply_eq_imp_iff₂] at hj
    simp only [Buffer.write]
    split
    · rename_i hij
      refine List.pairwise_cons.2 ⟨?_, h⟩
      simp only [List.mem_map, forall_exists_index, and_imp, forall_apply_eq_imp_iff₂]
      intro e he
      rcases List.mem_cons.1 he with rfl | he
      · exact hij
      · exact Nat.lt_trans hij (hj e he)
    · split
      · rename_i hij
        subst i
        refine List.pairwise_cons.2 ⟨?_, hm⟩
        simpa only [List.mem_map, forall_exists_index, and_imp, forall_apply_eq_imp_iff₂] using hj
      · rename_i h1 h2
        refine List.pairwise_cons.2 ⟨?_, ih hm⟩
        simp only [List.mem_map, forall_exists_index, and_imp, forall_apply_eq_imp_iff₂]
        intro e he
        rcases Buffer.mem_write he with h' | h'
        · omega
        · exact hj e h'

/-- Filling keeps the canonical form. -/
theorem Buffer.fill_wf {m : Buffer w} (h : Buffer.wf m) (i : Nat) (vs : List (BitVec w)) :
    Buffer.wf (Buffer.fill m i vs) := by
  induction vs generalizing m i with
  | nil => exact h
  | cons v vs ih => exact ih (Buffer.write_wf h i v) (i + 1)

/-- The indices a fill can list: those filled, and those listed before. -/
theorem Buffer.mem_fill {m : Buffer w} {i : Nat} {vs : List (BitVec w)} {e : Nat × BitVec w}
    (h : e ∈ Buffer.fill m i vs) : (i ≤ e.1 ∧ e.1 < i + vs.length) ∨ e ∈ m := by
  induction vs generalizing m i with
  | nil => exact .inr h
  | cons v vs ih =>
    rcases ih h with h | h
    · exact .inl (by simp only [List.length_cons]; omega)
    · rcases Buffer.mem_write h with h | h
      · exact .inl (by simp only [List.length_cons]; omega)
      · exact .inr h

/-- Reading below or above what a fill writes. -/
theorem Buffer.find_fill_outside (m : Buffer w) (i : Nat) (vs : List (BitVec w)) (k : Nat)
    (h : k < i ∨ i + vs.length ≤ k) : Buffer.find (Buffer.fill m i vs) k = Buffer.find m k := by
  induction vs generalizing m i with
  | nil => rfl
  | cons v vs ih =>
    simp only [List.length_cons] at h
    rw [Buffer.fill, ih _ _ (by omega), Buffer.find_write_of_ne _ _ (by omega)]

/-- Reading what a fill has written. -/
theorem Buffer.find_fill (m : Buffer w) (i : Nat) (vs : List (BitVec w)) (k : Nat) (h : k < vs.length) :
    Buffer.find (Buffer.fill m i vs) (i + k) = some vs[k] := by
  induction vs generalizing m i k with
  | nil => simp at h
  | cons v vs ih =>
    cases k with
    | zero =>
      rw [Buffer.fill, Buffer.find_fill_outside _ _ _ _ (.inl (by omega))]
      exact Buffer.find_write_same m i v
    | succ k =>
      have := ih (Buffer.write m i v) (i + 1) k (by simpa using h)
      rw [Buffer.fill, show i + (k + 1) = i + 1 + k by omega, this]
      simp

/-- Reading MB after filling it (R41). -/
theorem State.readMB_receive (s : State) (msg : List Byte) (i : Nat) (h : i < msg.length) :
    (s.receive msg).readMB i = msg[i] := by
  have := Buffer.find_fill [] 0 msg i h
  rw [Nat.zero_add] at this
  simp [State.readMB, this]

/-- Reading PB after filling it (R42). -/
theorem State.readPB_load (s : State) (words : List Word) (j : Nat) (h : j < words.length) :
    (s.load words).readPB j = words[j] := by
  have := Buffer.find_fill [] 0 words j h
  rw [Nat.zero_add] at this
  simp [State.readPB, this]

/-- A filled MB is in canonical form, and lists only indices below the length. -/
theorem State.receive_mb_wf (s : State) (msg : List Byte) : Buffer.wf (s.receive msg).mb :=
  Buffer.fill_wf (by simp [Buffer.wf]) 0 msg

theorem State.receive_mb_bound (s : State) (msg : List Byte) : ∀ e ∈ (s.receive msg).mb, e.1 < msg.length := by
  intro e he
  rcases Buffer.mem_fill he with h | h
  · omega
  · simp at h

/-- A filled PB is in canonical form, and lists only indices below the word count. -/
theorem State.load_pb_wf (s : State) (words : List Word) : Buffer.wf (s.load words).pb :=
  Buffer.fill_wf (by simp [Buffer.wf]) 0 words

theorem State.load_pb_bound (s : State) (words : List Word) : ∀ e ∈ (s.load words).pb, e.1 < words.length := by
  intro e he
  rcases Buffer.mem_fill he with h | h
  · omega
  · simp at h

/-- The buffers of the reset state are in canonical form. -/
theorem State.reset_buffers_wf : Buffer.wf State.reset.mb ∧ Buffer.wf State.reset.pb := by
  simp [State.reset, Buffer.wf]

end Sys2Proof.Machine
end

