-- ==== Sys2Proof/Laws/Compression.lean ====
section
/-! SUPPORT. Compression: the registers after steps, blocks and a whole compression, as the table-driven block function. -/

namespace Sys2Proof.Machine

/-- `f` updates the registers as row `n` says, and keeps the block words. -/
abbrev FollowsRow (f : State → State) (n : Nat) : Prop :=
  ∀ s : State, (f s).regs = applyRow (stepRow n) s.blockWord s.regs ∧ (f s).blockWord = s.blockWord

/-- A step keeps the block words (R31). -/
theorem State.roundStep_blockWord (s : State) (ra rb rc rd : Reg) (f : Word → Word → Word → Word) (k : Nat) (K : Word) (sh : Nat)
    (n : BitVec 6) : (s.roundStep ra rb rc rd f k K sh n).blockWord = s.blockWord := rfl

/-- Place `n` of the sequence is row `n` (R125). -/
theorem stepSequence_row (n : Nat) (h : n < 48) : FollowsRow (stepSequence.getD n id) n := by
  interval_cases n <;> exact fun s => ⟨rfl, State.roundStep_blockWord s _ _ _ _ _ _ _ _ _⟩

/-- The sequence is the 48 rows in order. -/
theorem stepSequence_rows : List.Forall₂ FollowsRow stepSequence (List.range 48) := by
  rw [List.forall₂_iff_get]
  refine ⟨by simp, fun i h1 h2 => ?_⟩
  have := stepSequence_row i h1
  rw [List.getD_eq_getElem _ _ h1] at this
  rwa [List.get_eq_getElem, List.get_eq_getElem, List.getElem_range]

/-- Running steps that follow rows. -/
theorem foldl_rows (fs : List (State → State)) (ns : List Nat) (h : List.Forall₂ FollowsRow fs ns) (s : State) :
    (fs.foldl (fun s f => f s) s).regs = ns.foldl (fun q n => applyRow (stepRow n) s.blockWord q) s.regs := by
  induction h generalizing s with
  | nil => rfl
  | @cons f n fs ns hf _ ih =>
    obtain ⟨h1, h2⟩ := hf s
    simp only [List.foldl_cons]
    rw [ih, h1, h2]

/-- The registers after the 48 steps (R113). -/
theorem State.runSteps_regs (s : State) :
    s.runSteps.regs = (List.range 48).foldl (fun q n => applyRow (stepRow n) s.blockWord q) s.regs :=
  foldl_rows _ _ stepSequence_rows s

/-- A row names one of the 16 block words (R31). -/
theorem stepRow_k_lt (n : Nat) (h : n < 48) : (stepRow n).k < 16 := by
  interval_cases n <;> decide

/-- A row reads one block word only. -/
theorem applyRow_congr (row : StepRow) (x y : Nat → Word) (r : Regs) (h : x row.k = y row.k) :
    applyRow row x r = applyRow row y r := by
  simp only [applyRow, h]

/-- The 48 rows read the 16 block words only. -/
theorem foldl_applyRow_congr (ns : List Nat) (x y : Nat → Word) (r : Regs) (hn : ∀ n ∈ ns, n < 48)
    (h : ∀ k, k < 16 → x k = y k) :
    ns.foldl (fun q n => applyRow (stepRow n) x q) r = ns.foldl (fun q n => applyRow (stepRow n) y q) r := by
  induction ns generalizing r with
  | nil => rfl
  | cons n ns ih =>
    simp only [List.foldl_cons]
    rw [applyRow_congr _ x y _ (h _ (stepRow_k_lt n (hn n List.mem_cons_self))), ih _ fun m hm => hn m (List.mem_cons_of_mem _ hm)]

/-- The registers after one block (R113, R115, R119). -/
theorem State.compressBlock_regs (s : State) (block : List Word) (h : ∀ k, k < 16 → s.blockWord k = block.getD k 0#32) :
    s.compressBlock.regs = blockFunction s.regs block := by
  obtain ⟨r, n, e⟩ := State.runSteps_stepLike s.startBlock
  have er : s.startBlock.runSteps.regs = r := by rw [e]
  have es : s.startBlock.runSteps.snap = s.regs := by rw [e]; rfl
  rw [State.compressBlock, State.feedForward_regs, es, State.runSteps_regs, blockFunction]
  exact congrArg (addRegs · s.regs) (foldl_applyRow_congr _ _ _ _ (fun n hn => List.mem_range.1 hn) h)

/-- The registers after `n` blocks (R113, R120). -/
theorem State.compressBlocks_regs (words : List Word) (n : Nat) (s : State)
    (hp : ∀ j, j < words.length → s.readPB j = words.getD j 0#32)
    (hn : 16 * (s.blk.toNat + n) ≤ words.length) (hb : s.blk.toNat + n < 2 ^ 28) :
    (State.compressBlocks n s).regs = chainBlocks n s.regs (words.drop (16 * s.blk.toNat)) := by
  induction n generalizing s with
  | zero => rfl
  | succ n ih =>
    have hblock : ∀ k, k < 16 → s.blockWord k = ((words.drop (16 * s.blk.toNat)).take 16).getD k 0#32 := by
      intro k hk
      rw [State.blockWord, hp _ (by omega)]
      simp [List.getD_eq_getElem?_getD, hk, List.getElem?_drop]
    obtain ⟨r, t, e⟩ := s.compressBlock_frame
    have er : s.compressBlock.regs = r := by rw [e]
    have hblk : s.compressBlock.blk.toNat = s.blk.toNat + 1 := by
      rw [e]; simp [BitVec.toNat_add]; omega
    have hrd : ∀ j, s.compressBlock.readPB j = s.readPB j := by intro j; rw [e]; rfl
    rw [State.compressBlocks_succ, ih s.compressBlock (fun j hj => by rw [hrd, hp j hj]) (by omega) (by omega), hblk,
      State.compressBlock_regs s _ hblock, chainBlocks, List.drop_drop]
    congr 2

/-- Reading PB after filling it, by default value. -/
theorem State.readPB_load_getD (s : State) (words : List Word) (j : Nat) (h : j < words.length) :
    (s.load words).readPB j = words.getD j 0#32 := by
  rw [State.readPB_load _ _ _ h, List.getD_eq_getElem _ _ h]

/-- The registers after a compression of the words in PB (R110, R112). -/
theorem State.compressAll_load_regs (s : State) (words : List Word) (h : words.length < 2 ^ 32) :
    (s.load words).compressAll.regs = chain s.regs words := by
  have hw : (s.load words).blocks = words.length / 16 := by
    show (BitVec.ofNat 32 words.length).toNat / 16 = _
    rw [BitVec.toNat_ofNat, Nat.mod_eq_of_lt h]
  rw [State.compressAll, hw, State.compressBlocks_regs words]
  · rfl
  · intro j hj; exact State.readPB_load_getD s words j hj
  · show 16 * ((0#28).toNat + _) ≤ _
    simp; omega
  · show ((0#28).toNat + _) < _
    simp; omega

/-- Blocks in two runs. -/
theorem chainBlocks_append (n m : Nat) (r : Regs) (ws vs : List Word) (h : ws.length = 16 * n) :
    chainBlocks (n + m) r (ws ++ vs) = chainBlocks m (chainBlocks n r ws) vs := by
  induction n generalizing r ws with
  | zero =>
    obtain rfl : ws = [] := List.length_eq_zero_iff.1 (by omega)
    simp [chainBlocks]
  | succ n ih =>
    rw [Nat.add_right_comm, chainBlocks, chainBlocks, List.take_append_of_le_length (by omega), List.drop_append_of_le_length (by omega)]
    exact ih _ _ (by simp; omega)

/-- Chaining over a concatenation of whole blocks (R120). -/
theorem chain_append (r : Regs) (ws vs : List Word) (h : ws.length % 16 = 0) (h2 : vs.length % 16 = 0) :
    chain r (ws ++ vs) = chain (chain r ws) vs := by
  rw [chain, List.length_append, show (ws.length + vs.length) / 16 = ws.length / 16 + vs.length / 16 by omega]
  exact chainBlocks_append _ _ _ _ _ (by omega)

/-! The activity takes no part in a compression. -/

/-- A step does not look at the activity. -/
theorem State.roundStep_ignoresActivity (s : State) (a : Activity) (ra rb rc rd : Reg) (f : Word → Word → Word → Word) (k : Nat) (K : Word) (sh : Nat)
    (n : BitVec 6) : ({ s with activity := a } : State).roundStep ra rb rc rd f k K sh n = { s.roundStep ra rb rc rd f k K sh n with activity := a } := rfl

/-- `f` does not look at the activity. -/
abbrev IgnoresActivity (f : State → State) : Prop := ∀ s a, f { s with activity := a } = { f s with activity := a }

/-- None of the 48 steps looks at the activity. -/
theorem stepSequence_ignoresActivity (n : Nat) (h : n < 48) : IgnoresActivity (stepSequence.getD n id) := by
  intro s a
  rcases lt_or_eq_of_le (Nat.le_of_lt_succ h) with h' | h'
  · interval_cases n <;> exact State.roundStep_ignoresActivity s a _ _ _ _ _ _ _ _ _
  · subst h'; exact State.roundStep_ignoresActivity s a _ _ _ _ _ _ _ _ _

/-- Nor does a run of them. -/
theorem foldl_ignoresActivity (l : List (State → State)) (h : ∀ f ∈ l, IgnoresActivity f) : IgnoresActivity (fun s => l.foldl (fun s f => f s) s) := by
  induction l with
  | nil => exact fun s a => rfl
  | cons f l ih =>
    intro s a
    show l.foldl _ (f _) = { l.foldl _ (f s) with activity := a }
    rw [h f List.mem_cons_self]
    exact ih (fun g hg => h g (List.mem_cons_of_mem _ hg)) _ _

/-- Nor do all 48. -/
theorem State.runSteps_ignoresActivity : IgnoresActivity State.runSteps := foldl_ignoresActivity _ fun f hf => by
  obtain ⟨n, hn, rfl⟩ := List.getElem_of_mem hf
  have := stepSequence_ignoresActivity n (by simpa using hn)
  rwa [List.getD_eq_getElem _ _ hn] at this

/-- Nor does a block. -/
theorem State.compressBlock_ignoresActivity : IgnoresActivity State.compressBlock := by
  intro s a
  have : (({ s with activity := a } : State).startBlock) = { s.startBlock with activity := a } := rfl
  rw [State.compressBlock, State.compressBlock, this, State.runSteps_ignoresActivity]
  generalize s.startBlock.runSteps = z; rfl

/-- Nor do `n` blocks. -/
theorem State.compressBlocks_ignoresActivity (n : Nat) : IgnoresActivity (State.compressBlocks n) := by
  induction n with
  | zero => exact fun s a => rfl
  | succ n ih => intro s a; rw [State.compressBlocks_succ, State.compressBlocks_succ, State.compressBlock_ignoresActivity, ih]

end Sys2Proof.Machine
end

