-- ==== Sys2Proof/Laws/Encoding.lean ====
section
/-! SUPPORT. Packing and unpacking fields, and the fields of a packet as arithmetic on its value. -/

namespace Sys2Proof

variable {w : Nat}

@[simp] theorem unpackFields_length (n v : Nat) : (unpackFields w n v).length = n := by
  induction n generalizing v with
  | zero => rfl
  | succ n ih => simp [unpackFields, ih]

/-- Packed fields fit their width. -/
theorem packFields_lt (xs : List (BitVec w)) : packFields xs < 2 ^ (w * xs.length) := by
  induction xs with
  | nil => simp [packFields]
  | cons x xs ih =>
    have hx := x.isLt
    have hs : 2 ^ (w * (xs.length + 1)) = 2 ^ w * 2 ^ (w * xs.length) := by rw [← Nat.pow_add]; congr 1; ring
    simp only [packFields, List.length_cons, hs]
    calc x.toNat + 2 ^ w * packFields xs < 2 ^ w + 2 ^ w * packFields xs := by omega
      _ = 2 ^ w * (packFields xs + 1) := by ring
      _ ≤ 2 ^ w * 2 ^ (w * xs.length) := Nat.mul_le_mul_left _ ih

/-- Unpacking what was packed gives it back. -/
theorem unpackFields_packFields (xs : List (BitVec w)) : unpackFields w xs.length (packFields xs) = xs := by
  induction xs with
  | nil => rfl
  | cons x xs ih =>
    have hx := x.isLt
    have h1 : BitVec.ofNat w (x.toNat + 2 ^ w * packFields xs) = x := by
      apply BitVec.eq_of_toNat_eq
      simp [Nat.mod_eq_of_lt hx]
    have h2 : (x.toNat + 2 ^ w * packFields xs) / 2 ^ w = packFields xs := by
      rw [Nat.add_mul_div_left _ _ (Nat.two_pow_pos w), Nat.div_eq_of_lt hx, Nat.zero_add]
    simp only [List.length_cons, packFields, unpackFields, h1, h2, ih]

/-- Packing what was unpacked gives the number back, if it has no bits above. -/
theorem packFields_unpackFields (n v : Nat) (h : v < 2 ^ (w * n)) : packFields (unpackFields w n v) = v := by
  induction n generalizing v with
  | zero => simp at h; simp [unpackFields, packFields, h]
  | succ n ih =>
    have hs : 2 ^ (w * (n + 1)) = 2 ^ w * 2 ^ (w * n) := by rw [← Nat.pow_add]; congr 1; ring
    rw [hs] at h
    have hd : v / 2 ^ w < 2 ^ (w * n) := Nat.div_lt_of_lt_mul h
    simp only [unpackFields, packFields, ih _ hd, BitVec.toNat_ofNat]
    exact Nat.mod_add_div v (2 ^ w)

/-- A field of a packet as arithmetic on its value (R10). -/
theorem Packet.field_toNat (p : Packet) (lo n : Nat) : (p.field lo n).toNat = p.bits.toNat / 2 ^ lo % 2 ^ n := by
  simp [Packet.field, BitVec.extractLsb'_toNat, Nat.shiftRight_eq_div_pow]

@[simp] theorem Packet.ofNat_len (n v : Nat) : (Packet.ofNat n v).len = n := rfl

/-- The value of a packet built from a number that fits. -/
theorem Packet.ofNat_toNat (n v : Nat) (h : v < 2 ^ n) : (Packet.ofNat n v).bits.toNat = v := by
  show (BitVec.ofNat n v).toNat = v
  rw [BitVec.toNat_ofNat, Nat.mod_eq_of_lt h]

/-- Two packets are equal if their lengths and values are. -/
theorem Packet.eq_of_toNat {p q : Packet} (hl : p.len = q.len) (hv : p.bits.toNat = q.bits.toNat) : p = q := by
  obtain ⟨n, b⟩ := p
  obtain ⟨m, c⟩ := q
  obtain rfl : n = m := hl
  exact congrArg (Packet.mk n) (BitVec.eq_of_toNat_eq hv)

/-- A field of a packet of equal fields laid above `lo` low bits (R64, R65, R69). -/
theorem Packet.field_of_fields {w : Nat} (n lo : Nat) (xs : List (BitVec w)) (c : Nat) (hc : c < 2 ^ lo) (i : Nat) (hi : i < xs.length)
    (hn : n = lo + w * xs.length) : (Packet.ofNat n (c + 2 ^ lo * packFields xs)).field (lo + w * i) w = xs[i] := by
  have hp := packFields_lt xs
  apply BitVec.eq_of_toNat_eq
  rw [Packet.field_toNat, Packet.ofNat_toNat]
  · rw [Nat.pow_add, ← Nat.div_div_eq_div_mul]
    have : (c + 2 ^ lo * packFields xs) / 2 ^ lo = packFields xs := by
      rw [Nat.add_mul_div_left _ _ (Nat.two_pow_pos lo), Nat.div_eq_of_lt hc, Nat.zero_add]
    rw [this]
    clear this hp hc hn
    induction xs generalizing i with
    | nil => simp at hi
    | cons x xs ih =>
      cases i with
      | zero => simp [packFields, Nat.mod_eq_of_lt x.isLt]
      | succ i =>
        have h2 : (x.toNat + 2 ^ w * packFields xs) / 2 ^ w = packFields xs := by
          rw [Nat.add_mul_div_left _ _ (Nat.two_pow_pos w), Nat.div_eq_of_lt x.isLt, Nat.zero_add]
        have e : 2 ^ (w * (i + 1)) = 2 ^ w * 2 ^ (w * i) := by rw [← Nat.pow_add]; congr 1; ring
        rw [packFields, e, ← Nat.div_div_eq_div_mul, h2]
        simpa using ih i (by simpa using hi)
  · rw [hn, Nat.pow_add]
    calc _ < 2 ^ lo + 2 ^ lo * packFields xs := by omega
      _ = 2 ^ lo * (packFields xs + 1) := by ring
      _ ≤ _ := Nat.mul_le_mul_left _ hp

/-- A field within the `lo` low bits. -/
theorem Packet.field_below_fields {w : Nat} (n lo : Nat) (xs : List (BitVec w)) (c : Nat) (hc : c < 2 ^ lo)
    (hn : n = lo + w * xs.length) (a b : Nat) (hb : a + b ≤ lo): ((Packet.ofNat n (c + 2 ^ lo * packFields xs)).field a b).toNat = c / 2 ^ a % 2 ^ b := by
  have hp := packFields_lt xs
  rw [Packet.field_toNat, Packet.ofNat_toNat]
  · obtain ⟨k, rfl⟩ := Nat.exists_eq_add_of_le hb
    have : c + 2 ^ (a + b + k) * packFields xs = c + 2 ^ a * (2 ^ b * (2 ^ k * packFields xs)) := by
      rw [Nat.pow_add, Nat.pow_add]; ring
    rw [this, Nat.add_mul_div_left _ _ (Nat.two_pow_pos a), Nat.add_mul_mod_self_left]
  · rw [hn, Nat.pow_add]
    calc _ < 2 ^ lo + 2 ^ lo * packFields xs := by omega
      _ = 2 ^ lo * (packFields xs + 1) := by ring
      _ ≤ _ := Nat.mul_le_mul_left _ hp

/-- The header byte from its two halves (R61). -/
theorem Packet.header_toNat (p : Packet) (op : Nat) (h4 : p.field 4 4 = 0#4) (h0 : (p.field 0 4).toNat = op) :
    p.bits.toNat % 256 = op := by
  have := congrArg BitVec.toNat h4
  rw [Packet.field_toNat] at this h0
  simp at this h0
  omega

/-- A packet whose number is a multiple of 256 has status 0 and reserved bits 0 (R67, R68). -/
theorem Packet.field_header_zero (n v : Nat) (h : 8 ≤ n) : (Packet.ofNat n (2 ^ 8 * v)).field 0 8 = 0#8 := by
  apply BitVec.eq_of_toNat_eq
  rw [Packet.field_toNat]
  show (BitVec.ofNat n (2 ^ 8 * v)).toNat / 2 ^ 0 % 2 ^ 8 = 0
  obtain ⟨m, rfl⟩ := Nat.exists_eq_add_of_le h
  rw [BitVec.toNat_ofNat, Nat.pow_zero, Nat.div_one, Nat.mod_mod_of_dvd _ ⟨2 ^ m, Nat.pow_add _ _ _⟩, Nat.mul_mod_right]

end Sys2Proof
end

