-- ==== Sys2Proof/Laws/Exec.lean ====
section
/-! SUPPORT. What each shared operation and each command can answer. -/

namespace Sys2Proof.Machine

/-- Which fault PAD and DIGEST meet, and when. -/
theorem messageFault_cases (s : State) (L : Nat) :
    (s.halted = true ∧ messageFault s L = some .halted)
    ∨ (s.halted = false ∧ ¬ s.messageFits L ∧ messageFault s L = some .capacity)
    ∨ (s.halted = false ∧ s.messageFits L ∧ messageFault s L = none) := by
  unfold messageFault messageTooLong State.messageFits blockCount
  cases s.halted
  · by_cases h : s.params.msgCap < L
    · simp [h]
    · by_cases h' : s.params.pbCap < 16 * ((L + 8) / 64 + 1)
      · simp [h']
      · simp [h, h']; omega
  · simp

/-- Which fault COMPRESS meets, and when, in the order of R238. -/
theorem wordsFault_cases (s : State) (n : Nat) :
    (s.halted = true ∧ wordsFault s n = some .halted)
    ∨ (s.halted = false ∧ s.params.pbCap < n ∧ wordsFault s n = some .capacity)
    ∨ (s.halted = false ∧ n ≤ s.params.pbCap ∧ n % 16 ≠ 0 ∧ wordsFault s n = some .align)
    ∨ (s.halted = false ∧ n ≤ s.params.pbCap ∧ n % 16 = 0 ∧ wordsFault s n = none) := by
  unfold wordsFault wordsTooMany misaligned
  cases s.halted
  · by_cases h : s.params.pbCap < n
    · simp [h]
    · by_cases h' : n % 16 = 0
      · simp [h, h']; omega
      · simp [h, h']; omega
  · simp

/-- When FORMAT, SET_STATE, RESET_IV and GET_STATE meet a fault. -/
theorem accessFault_cases (s : State) :
    (s.halted = true ∧ accessFault s = some .halted) ∨ (s.halted = false ∧ accessFault s = none) := by
  unfold accessFault
  cases s.halted <;> simp

/-- HALTED keeps its value under every fault but ALIGN. -/
theorem haltedAfter_of_ne_align {f : FaultCode} (h : f ≠ .align) (b : Bool) : haltedAfter f b = b := by
  cases f <;> first | rfl | exact absurd rfl h

@[simp] theorem haltedAfter_align (b : Bool) : haltedAfter .align b = true := rfl

/-- What PAD answers. -/
theorem execPad_cases (msg : List Byte) (s : State) :
    (∃ f, messageFault s msg.length = some f ∧ execPad msg s = .next (s.raise f))
    ∨ (messageFault s msg.length = none
        ∧ execPad msg s = .next ((s.receive msg).frame.release.respond (.words (s.receive msg).frame.storedWords))) := by
  unfold execPad
  cases h : messageFault s msg.length
  · exact .inr ⟨rfl, rfl⟩
  · exact .inl ⟨_, rfl, rfl⟩

/-- What COMPRESS answers. -/
theorem execCompress_cases (words : List Word) (s : State) :
    (∃ f, wordsFault s words.length = some f ∧ execCompress words s = .next (s.raise f))
    ∨ (wordsFault s words.length = none
        ∧ execCompress words s = .next (s.load words).compressAll.finishCompress) := by
  unfold execCompress
  cases h : wordsFault s words.length
  · exact .inr ⟨rfl, rfl⟩
  · exact .inl ⟨_, rfl, rfl⟩

/-- What DIGEST answers. -/
theorem execDigest_cases (msg : List Byte) (s : State) :
    (∃ f, messageFault s msg.length = some f ∧ execDigest msg s = .next (s.raise f))
    ∨ (messageFault s msg.length = none
        ∧ execDigest msg s = .next (s.receive msg).frame.compressAll.finishDigest) := by
  unfold execDigest
  cases h : messageFault s msg.length
  · exact .inr ⟨rfl, rfl⟩
  · exact .inl ⟨_, rfl, rfl⟩

/-- What the four commands without a data packet answer: a refusal when halted, else the state `t` of the command. -/
theorem access_cases (s t : State) :
    (s.halted = true
      ∧ (match accessFault s with | some f => Host.Outcome.next (s.raise f) | none => .next t) = (.next (s.raise .halted) : Out))
    ∨ (s.halted = false
      ∧ (match accessFault s with | some f => Host.Outcome.next (s.raise f) | none => .next t) = (.next t : Out)) := by
  rcases accessFault_cases s with ⟨h, e⟩ | ⟨h, e⟩ <;> simp [h, e]

/-- Every instruction answers a next state: no instruction stops the machine (R230, R234). -/
theorem exec_answers (i : Instr) (s : State) : ∃ t, exec i s = .next t := by
  cases i <;> simp only [exec]
  case pad msg => rcases execPad_cases msg s with ⟨_, _, h⟩ | ⟨_, h⟩ <;> exact ⟨_, h⟩
  case compress words => rcases execCompress_cases words s with ⟨_, _, h⟩ | ⟨_, h⟩ <;> exact ⟨_, h⟩
  case digest msg => rcases execDigest_cases msg s with ⟨_, _, h⟩ | ⟨_, h⟩ <;> exact ⟨_, h⟩
  case format => rcases access_cases s _ with ⟨_, h⟩ | ⟨_, h⟩ <;> exact ⟨_, h⟩
  case setState a b c d => rcases access_cases s _ with ⟨_, h⟩ | ⟨_, h⟩ <;> exact ⟨_, h⟩
  case resetIv => rcases access_cases s _ with ⟨_, h⟩ | ⟨_, h⟩ <;> exact ⟨_, h⟩
  case getState => rcases access_cases s _ with ⟨_, h⟩ | ⟨_, h⟩ <;> exact ⟨_, h⟩
  all_goals exact ⟨_, rfl⟩

/-- Nothing stands in the way of the four commands without a data packet (R235). -/
theorem accessFault_of_running {s : State} (h : s.halted = false) : accessFault s = none := by simp [accessFault, h]

/-- A message that fits meets no fault. -/
theorem messageFault_of_fits {s : State} {L} (h : s.halted = false) (h2 : s.messageFits L) : messageFault s L = none := by
  rcases messageFault_cases s L with ⟨a, b⟩ | ⟨a, b, c⟩ | ⟨a, b, c⟩
  · simp [h] at a
  · exact absurd h2 b
  · exact c

/-- Words that fit and are block-aligned meet no fault. -/
theorem wordsFault_of_fits {s : State} {n} (h : s.halted = false) (h1 : n ≤ s.params.pbCap) (h2 : n % 16 = 0) : wordsFault s n = none := by
  simp [wordsFault, wordsTooMany, misaligned, h, h2, h1]

/-- What the packet decoder gives is a command (R66). -/
theorem isCommand_of_decode {p : Packet} {i : Instr} (h : decode p = .command i) : i.isCommand = true := by
  unfold decode at h
  split at h
  · cases h
  · split at h
    · cases h
    · split at h
      · unfold Packet.command at h
        split at h <;> first | cases h; done | (cases h; rfl)
      · cases h

/-- What a command can do: take HALTED, CAPACITY or ALIGN, or succeed with one OK response (R230, R236, R238). -/
theorem exec_command_cases (i : Instr) (s : State) (hc : i.isCommand = true) :
   ∃ t, exec i s = .next t ∧
    ((s.halted = true ∧ t = s.raise .halted)
    ∨ (s.halted = false ∧ t = s.raise .capacity)
    ∨ (s.halted = false ∧ (∃ ws, i = .compress ws ∧ ws.length ≤ s.params.pbCap ∧ ws.length % 16 ≠ 0) ∧ t = s.raise .align)
    ∨ (s.halted = false ∧ t.halted = false ∧ t.params = s.params ∧ t.inbox = s.inbox ∧ ∃ p, t.outbox = s.outbox ++ [okResponse p])) := by
  cases i
  case pad msg =>
    simp only [exec]
    rcases execPad_cases msg s with ⟨f, hf, e⟩ | ⟨hf, e⟩ <;> refine ⟨_, e, ?_⟩ <;>
      rcases messageFault_cases s msg.length with ⟨a, b⟩ | ⟨a, b, c⟩ | ⟨a, b, c⟩ <;> simp_all
  case digest msg =>
    simp only [exec]
    rcases execDigest_cases msg s with ⟨f, hf, e⟩ | ⟨hf, e⟩ <;> refine ⟨_, e, ?_⟩ <;>
      rcases messageFault_cases s msg.length with ⟨a, b⟩ | ⟨a, b, c⟩ | ⟨a, b, c⟩ <;> simp_all
  case compress ws =>
    simp only [exec]
    rcases execCompress_cases ws s with ⟨f, hf, e⟩ | ⟨hf, e⟩ <;> refine ⟨_, e, ?_⟩ <;>
      rcases wordsFault_cases s ws.length with ⟨a, b⟩ | ⟨a, b, c⟩ | ⟨a, b, c, d⟩ | ⟨a, b, c, d⟩ <;> simp_all
  case format => 
    simp only [exec]
    rcases accessFault_cases s with ⟨a, b⟩ | ⟨a, b⟩ <;> simp [execFormat, b, a]
  case setState a b c d => 
    simp only [exec]
    rcases accessFault_cases s with ⟨a, b⟩ | ⟨a, b⟩ <;> simp [execSetState, b, a]
  case resetIv => 
    simp only [exec]
    rcases accessFault_cases s with ⟨a, b⟩ | ⟨a, b⟩ <;> simp [execResetIv, b, a]
  case getState => 
    simp only [exec]
    rcases accessFault_cases s with ⟨a, b⟩ | ⟨a, b⟩ <;> simp [execGetState, b, a]
  all_goals cases hc

end Sys2Proof.Machine
end

