-- ==== Sys2Proof/Laws/Operands.lean ====
section
/-! SUPPORT. Bytes and words as numbers, and the padding quantities. -/

namespace Sys2Proof.Machine

/-! ## Bytes and words -/

/-- A byte appended below. -/
theorem toNat_append_byte {n : Nat} (x : BitVec n) (y : BitVec 8) : (x ++ y).toNat = 2 ^ 8 * x.toNat + y.toNat := by
  rw [BitVec.toNat_append, Nat.shiftLeft_eq, Nat.mul_comm, Nat.two_pow_add_eq_or_of_lt y.isLt]

/-- `be32` as a number (R11). -/
theorem be32_toNat (b0 b1 b2 b3 : Byte) : (be32 b0 b1 b2 b3).toNat = 2 ^ 24 * b0.toNat + 2 ^ 16 * b1.toNat + 2 ^ 8 * b2.toNat + b3.toNat := by
  simp only [be32, toNat_append_byte]; omega

/-- `le32` as a number (R45). -/
theorem le32_toNat (b0 b1 b2 b3 : Byte) :
    (le32 b0 b1 b2 b3).toNat = b0.toNat + 2 ^ 8 * b1.toNat + 2 ^ 16 * b2.toNat + 2 ^ 24 * b3.toNat := by
  simp only [le32, toNat_append_byte]; omega

/-- A byte of a word as a number. -/
theorem byteOf_toNat (v : Word) (i : Nat) : (byteOf v i).toNat = v.toNat / 2 ^ (8 * i) % 2 ^ 8 := by
  simp [byteOf, BitVec.extractLsb'_toNat, Nat.shiftRight_eq_div_pow]

/-- The bytes of an assembled word. -/
theorem byteOf_be32 (b0 b1 b2 b3 : Byte) : byteOf (be32 b0 b1 b2 b3) 0 = b3 ∧ byteOf (be32 b0 b1 b2 b3) 1 = b2
    ∧ byteOf (be32 b0 b1 b2 b3) 2 = b1 ∧ byteOf (be32 b0 b1 b2 b3) 3 = b0 := by
  have := b0.isLt; have := b1.isLt; have := b2.isLt; have := b3.isLt
  refine ⟨?_, ?_, ?_, ?_⟩ <;> apply BitVec.eq_of_toNat_eq <;> rw [byteOf_toNat, be32_toNat] <;> omega

/-- A word is assembled from its bytes. -/
theorem be32_byteOf (v : Word) : be32 (byteOf v 3) (byteOf v 2) (byteOf v 1) (byteOf v 0) = v := by
  have := v.isLt
  apply BitVec.eq_of_toNat_eq
  rw [be32_toNat]; simp only [byteOf_toNat]; omega

/-- The low four bytes of the length field (R95, R99). -/
theorem le32_length_low (n : BitVec 64) : le32 (n.extractLsb' 0 8) (n.extractLsb' 8 8) (n.extractLsb' 16 8) (n.extractLsb' 24 8) = lo32 n := by
  apply BitVec.eq_of_toNat_eq
  rw [le32_toNat]
  simp only [lo32, BitVec.extractLsb'_toNat, Nat.shiftRight_eq_div_pow]
  omega

/-- The high four bytes of the length field (R95, R99). -/
theorem le32_length_high (n : BitVec 64) : le32 (n.extractLsb' 32 8) (n.extractLsb' 40 8) (n.extractLsb' 48 8) (n.extractLsb' 56 8) = hi32 n := by
  apply BitVec.eq_of_toNat_eq
  rw [le32_toNat]
  simp only [hi32, BitVec.extractLsb'_toNat, Nat.shiftRight_eq_div_pow]
  omega

/-! ## Padding quantities (R91) -/

/-- `k` is below 64. -/
theorem zeroCount_lt (L : Nat) : zeroCount L < 64 := by unfold zeroCount; split <;> omega

/-- `Lp + 8 = 64 * N`. -/
theorem paddedLength_eq (L : Nat) : paddedLength L + 8 = 64 * blockCount L := by
  unfold paddedLength zeroCount blockCount; split <;> omega

end Sys2Proof.Machine
end

