-- ==== Sys2Proof/Laws/Framing.lean ====
section
/-! SUPPORT. Framing: what PB holds after it, as the Padded Block Sequence of the message. -/

namespace Sys2Proof.Machine

/-- Four bytes a word. -/
theorem wordsOfBytes_length (bs : List Byte) : (wordsOfBytes bs).length = bs.length / 4 := by
  fun_induction wordsOfBytes bs with
  | case1 b0 b1 b2 b3 rest ih => simp [ih]; omega
  | case2 bs h =>
    rcases bs with _ | ⟨a, _ | ⟨b, _ | ⟨c, _ | ⟨d, r⟩⟩⟩⟩ <;> simp
    exact absurd rfl (h a b c d r)

/-- Word `j` from its four bytes (R99). -/
theorem wordsOfBytes_getD (bs : List Byte) (j : Nat) (h : 4 * j + 4 ≤ bs.length) :
    (wordsOfBytes bs).getD j 0#32
      = le32 (bs.getD (4 * j) 0#8) (bs.getD (4 * j + 1) 0#8) (bs.getD (4 * j + 2) 0#8) (bs.getD (4 * j + 3) 0#8) := by
  induction j generalizing bs with
  | zero =>
    rcases bs with _ | ⟨a, _ | ⟨b, _ | ⟨c, _ | ⟨d, r⟩⟩⟩⟩ <;> simp at h
    simp [wordsOfBytes]
  | succ j ih =>
    rcases bs with _ | ⟨a, _ | ⟨b, _ | ⟨c, _ | ⟨d, r⟩⟩⟩⟩ <;> simp at h
    simp only [wordsOfBytes, List.getD_cons_succ]
    rw [ih r (by omega)]
    rfl

/-- The length field is 8 bytes. -/
theorem bytesLe64_length (n : BitVec 64) : (bytesLe64 n).length = 8 := rfl

/-- Message and padding are `64*N` bytes (R99). -/
theorem paddingOf_length (L : Nat) : (paddingOf L).length + L = 64 * blockCount L := by
  have := paddedLength_eq L
  simp [paddingOf, bytesLe64_length, paddedLength] at *
  omega

/-- The padded message is `64*N` bytes (R99). -/
theorem paddedMessage_length (msg : List Byte) : (paddedMessage msg).length = 64 * blockCount msg.length := by
  have := paddingOf_length msg.length
  simp [paddedMessage]; omega

/-- The Padded Block Sequence is `16*N` words (R96). -/
theorem paddedWords_length (msg : List Byte) : (paddedWords msg).length = 16 * blockCount msg.length := by
  rw [paddedWords, wordsOfBytes_length, paddedMessage_length]; omega

/-- The bytes before the length field (R93). -/
theorem paddedMessage_getD (msg : List Byte) (i : Nat) (h : i < paddedLength msg.length) :
    (paddedMessage msg).getD i 0#8 = if i < msg.length then msg.getD i 0#8 else if i = msg.length then 0x80#8 else 0x00#8 := by
  unfold paddedLength at h
  simp only [paddedMessage, paddingOf]
  split
  · rename_i h1
    rw [List.getD_append _ _ _ _ h1]
  · rename_i h1
    rw [List.getD_append_right _ _ _ _ (by omega)]
    split
    · rename_i h2; subst h2; simp
    · rename_i h2
      obtain ⟨k, hk⟩ : ∃ k, i - msg.length = k + 1 := ⟨i - msg.length - 1, by omega⟩
      rw [hk, List.cons_append, List.getD_cons_succ, List.getD_append _ _ _ _ (by simp; omega)]
      simp

/-- The bytes of the length field (R99). -/
theorem paddedMessage_getD_length (msg : List Byte) (i : Nat) (h : i < 8) :
    (paddedMessage msg).getD (paddedLength msg.length + i) 0#8 = (bitLength msg.length).extractLsb' (8 * i) 8 := by
  have e : paddedMessage msg = (msg ++ (0x80#8 :: List.replicate (zeroCount msg.length) 0x00#8)) ++ bytesLe64 (bitLength msg.length) := by
    simp [paddedMessage, paddingOf]
  have el : (msg ++ (0x80#8 :: List.replicate (zeroCount msg.length) 0x00#8)).length = paddedLength msg.length := by
    simp [paddedLength]; omega
  rw [e, List.getD_append_right _ _ _ _ (by omega), el, Nat.add_sub_cancel_left, bytesLe64]
  simp [h]

/-- Framing gives `16*N` words (R96). -/
theorem State.framedWords_length (s : State) : s.framedWords.length = 16 * blockCount s.len.toNat := by
  have := paddedLength_eq s.len.toNat
  simp [State.framedWords]; omega

/-- The padded byte string of a received message (R93). -/
theorem State.paddedByte_receive (s : State) (msg : List Byte) (h : msg.length < 2 ^ 64) (i : Nat) :
    (s.receive msg).paddedByte i = if i < msg.length then msg.getD i 0#8 else if i = msg.length then 0x80#8 else 0x00#8 := by
  have hl : (s.receive msg).len.toNat = msg.length := by
    rw [State.receive_len, BitVec.toNat_ofNat, Nat.mod_eq_of_lt h]
  rw [State.paddedByte, hl]
  split
  · rename_i h1; rw [State.readMB_receive _ _ _ h1, List.getD_eq_getElem _ _ h1]
  · rfl

/-- Framing a received message gives its Padded Block Sequence (R99). -/
theorem State.framedWords_receive (s : State) (msg : List Byte) (h : msg.length < 2 ^ 64) :
    (s.receive msg).framedWords = paddedWords msg := by
  have hl : (s.receive msg).len.toNat = msg.length := by
    rw [State.receive_len, BitVec.toNat_ofNat, Nat.mod_eq_of_lt h]
  have hlen : (s.receive msg).framedWords.length = (paddedWords msg).length := by
    rw [State.framedWords_length, paddedWords_length, hl]
  have hpl := paddedLength_eq msg.length
  have hml := paddedMessage_length msg
  apply List.ext_getElem hlen
  intro j h1 h2
  have hj : j < 16 * blockCount msg.length := by rw [paddedWords_length] at h2; exact h2
  rw [← List.getD_eq_getElem _ 0#32 h2, paddedWords, wordsOfBytes_getD _ _ (by omega)]
  by_cases hj' : j < paddedLength msg.length / 4
  · rw [paddedMessage_getD _ _ (by omega), paddedMessage_getD _ _ (by omega), paddedMessage_getD _ _ (by omega),
      paddedMessage_getD _ _ (by omega)]
    have : (s.receive msg).framedWords[j] = (s.receive msg).paddedWord j := by
      simp only [State.framedWords, hl]
      rw [List.getElem_append_left (by simpa using hj')]
      simp
    rw [this, State.paddedWord]
    simp only [State.paddedByte_receive s msg h]
  · by_cases hj2 : j = paddedLength msg.length / 4
    · have e : 4 * j = paddedLength msg.length + 0 := by omega
      rw [e]
      have f := paddedMessage_getD_length msg
      have f0 := f 0 (by omega); have f1 := f 1 (by omega); have f2 := f 2 (by omega); have f3 := f 3 (by omega)
      rw [f0, Nat.add_zero, f1, f2, f3]
      have := le32_length_low (bitLength msg.length)
      simp only [Nat.mul_zero, Nat.mul_one] at *
      rw [this]
      simp only [State.framedWords, hl]
      rw [List.getElem_append_right (by simp; omega)]
      simp [hj2]
    · have e : 4 * j = paddedLength msg.length + 4 := by omega
      rw [e]
      have f := paddedMessage_getD_length msg
      have f0 := f 4 (by omega); have f1 := f 5 (by omega); have f2 := f 6 (by omega); have f3 := f 7 (by omega)
      rw [f0, Nat.add_assoc, f1, Nat.add_assoc, f2, Nat.add_assoc, f3]
      have := le32_length_high (bitLength msg.length)
      rw [this]
      simp only [State.framedWords, hl]
      rw [List.getElem_append_right (by simp; omega)]
      have : j - paddedLength msg.length / 4 = 1 := by omega
      simp [this]

/-- `frame()` fills PB with the Padded Block Sequence (R92). -/
theorem State.frame_receive (s : State) (msg : List Byte) (h : msg.length < 2 ^ 64) :
    (s.receive msg).frame = (s.receive msg).load (paddedWords msg) := by
  rw [State.frame, State.framedWords_receive s msg h]

/-- Reading back the words PB was filled with (R92). -/
theorem State.storedWords_load (s : State) (ws : List Word) (h : ws.length < 2 ^ 32) : (s.load ws).storedWords = ws := by
  rw [State.storedWords, State.load_wcnt, BitVec.toNat_ofNat, Nat.mod_eq_of_lt h]
  apply List.ext_getElem (by simp)
  intro j h1 h2
  rw [List.getElem_map, List.getElem_range, State.readPB_load _ _ _ h2]

/-- What fits a valid configuration fits the fields of State (R8). -/
theorem State.messageFits_bounds (s : State) (L : Nat) (hv : s.params.valid) (h : s.messageFits L) : L < 2 ^ 61 ∧ 16 * blockCount L < 2 ^ 32 := by
  obtain ⟨h1, _, _, h4⟩ := hv
  obtain ⟨h5, h6⟩ := h
  unfold blockCount
  omega

end Sys2Proof.Machine
end

