-- ==== Sys2Proof/Laws/PerInstr.lean ====
section
/-! SUPPORT. Statements made for every instruction, one lemma for each constructor. -/

namespace Sys2Proof.Laws.TableBits

/-- The bits by which opcode_table.json tells an instruction: the header byte of a packet, or the sequencer value. -/
def fixedBits : InstrBits → Nat
  | .packet p => p.bits.toNat % 256
  | .sequencer t => t.toNat

/-- The column "match" of opcode_table.json. -/
def tableMatch : Instr → Nat
  | .pad _ => 0x01
  | .compress _ => 0x02
  | .format => 0x03
  | .setState _ _ _ _ => 0x04
  | .resetIv => 0x05
  | .getState => 0x06
  | .digest _ => 0x07
  | .step00 => 0x00
  | .step01 => 0x01
  | .step02 => 0x02
  | .step03 => 0x03
  | .step04 => 0x04
  | .step05 => 0x05
  | .step06 => 0x06
  | .step07 => 0x07
  | .step08 => 0x08
  | .step09 => 0x09
  | .step10 => 0x0A
  | .step11 => 0x0B
  | .step12 => 0x0C
  | .step13 => 0x0D
  | .step14 => 0x0E
  | .step15 => 0x0F
  | .step16 => 0x10
  | .step17 => 0x11
  | .step18 => 0x12
  | .step19 => 0x13
  | .step20 => 0x14
  | .step21 => 0x15
  | .step22 => 0x16
  | .step23 => 0x17
  | .step24 => 0x18
  | .step25 => 0x19
  | .step26 => 0x1A
  | .step27 => 0x1B
  | .step28 => 0x1C
  | .step29 => 0x1D
  | .step30 => 0x1E
  | .step31 => 0x1F
  | .step32 => 0x20
  | .step33 => 0x21
  | .step34 => 0x22
  | .step35 => 0x23
  | .step36 => 0x24
  | .step37 => 0x25
  | .step38 => 0x26
  | .step39 => 0x27
  | .step40 => 0x28
  | .step41 => 0x29
  | .step42 => 0x2A
  | .step43 => 0x2B
  | .step44 => 0x2C
  | .step45 => 0x2D
  | .step46 => 0x2E
  | .step47 => 0x2F

/-- The encoding of an instruction carries the fixed bits of its row. -/
def Statement (i : Instr) : Prop := fixedBits (encode i) = tableMatch i

/-- The header of a packet built from an opcode and fields above it. -/
theorem header_of_ofNat (n op v : Nat) (hn : 8 ≤ n) (hop : op < 256) (hv : v % 256 = 0) :
    (Packet.ofNat n (op + v)).bits.toNat % 256 = op := by
  show (BitVec.ofNat n (op + v)).toNat % 256 = op
  have hd : 256 ∣ 2 ^ n := by
    obtain ⟨m, rfl⟩ := Nat.exists_eq_add_of_le hn
    exact ⟨2 ^ m, by rw [Nat.pow_add]⟩
  rw [BitVec.toNat_ofNat, Nat.mod_mod_of_dvd _ hd]
  omega

theorem pad (msg : List Byte) : Statement (.pad msg) := by
  show (Packet.ofNat _ (1 + 2 ^ 8 * msg.length + 2 ^ 72 * packFields msg)).bits.toNat % 256 = 1
  rw [Nat.add_assoc]
  exact header_of_ofNat _ 1 _ (by omega) (by omega) (by omega)

theorem digest (msg : List Byte) : Statement (.digest msg) := by
  show (Packet.ofNat _ (7 + 2 ^ 8 * msg.length + 2 ^ 72 * packFields msg)).bits.toNat % 256 = 7
  rw [Nat.add_assoc]
  exact header_of_ofNat _ 7 _ (by omega) (by omega) (by omega)

theorem compress (words : List Word) : Statement (.compress words) := by
  show (Packet.ofNat _ (2 + 2 ^ 8 * words.length + 2 ^ 40 * packFields words)).bits.toNat % 256 = 2
  rw [Nat.add_assoc]
  exact header_of_ofNat _ 2 _ (by omega) (by omega) (by omega)

theorem setState (a b c d : Word) : Statement (.setState a b c d) :=
  header_of_ofNat 136 4 (2 ^ 8 * packFields [a, b, c, d]) (by omega) (by omega) (by omega)

theorem format : Statement .format := rfl
theorem resetIv : Statement .resetIv := rfl
theorem getState : Statement .getState := rfl
theorem step00 : Statement .step00 := rfl
theorem step01 : Statement .step01 := rfl
theorem step02 : Statement .step02 := rfl
theorem step03 : Statement .step03 := rfl
theorem step04 : Statement .step04 := rfl
theorem step05 : Statement .step05 := rfl
theorem step06 : Statement .step06 := rfl
theorem step07 : Statement .step07 := rfl
theorem step08 : Statement .step08 := rfl
theorem step09 : Statement .step09 := rfl
theorem step10 : Statement .step10 := rfl
theorem step11 : Statement .step11 := rfl
theorem step12 : Statement .step12 := rfl
theorem step13 : Statement .step13 := rfl
theorem step14 : Statement .step14 := rfl
theorem step15 : Statement .step15 := rfl
theorem step16 : Statement .step16 := rfl
theorem step17 : Statement .step17 := rfl
theorem step18 : Statement .step18 := rfl
theorem step19 : Statement .step19 := rfl
theorem step20 : Statement .step20 := rfl
theorem step21 : Statement .step21 := rfl
theorem step22 : Statement .step22 := rfl
theorem step23 : Statement .step23 := rfl
theorem step24 : Statement .step24 := rfl
theorem step25 : Statement .step25 := rfl
theorem step26 : Statement .step26 := rfl
theorem step27 : Statement .step27 := rfl
theorem step28 : Statement .step28 := rfl
theorem step29 : Statement .step29 := rfl
theorem step30 : Statement .step30 := rfl
theorem step31 : Statement .step31 := rfl
theorem step32 : Statement .step32 := rfl
theorem step33 : Statement .step33 := rfl
theorem step34 : Statement .step34 := rfl
theorem step35 : Statement .step35 := rfl
theorem step36 : Statement .step36 := rfl
theorem step37 : Statement .step37 := rfl
theorem step38 : Statement .step38 := rfl
theorem step39 : Statement .step39 := rfl
theorem step40 : Statement .step40 := rfl
theorem step41 : Statement .step41 := rfl
theorem step42 : Statement .step42 := rfl
theorem step43 : Statement .step43 := rfl
theorem step44 : Statement .step44 := rfl
theorem step45 : Statement .step45 := rfl
theorem step46 : Statement .step46 := rfl
theorem step47 : Statement .step47 := rfl

end Sys2Proof.Laws.TableBits
end

