-- ==== Sys2Proof/Laws/Step.lean ====
section
/-! SUPPORT. What one step of the machine can be. -/

namespace Sys2Proof.Machine

/-- What an engine that waits does next. -/
theorem fetchEvent_cases (s : State) :
    (s.inbox = [] ∧ s.fetchEvent = .waiting)
    ∨ (∃ rest, s.inbox = .hardwareReset :: rest ∧ s.fetchEvent = .reset { s with inbox := rest })
    ∨ (∃ p rest i, s.inbox = .packet p :: rest ∧ decode p = .command i ∧ s.fetchEvent = .command i { s with inbox := rest })
    ∨ (∃ p rest, s.inbox = .packet p :: rest ∧ decode p = .illegal ∧ s.fetchEvent = .illegal { s with inbox := rest })
    ∨ (∃ p rest, s.inbox = .packetCutByReset p :: rest ∧ decode p ≠ .malformed
        ∧ s.fetchEvent = .reset { s with inbox := rest })
    ∨ (∃ p rest, (s.inbox = .packet p :: rest ∨ s.inbox = .packetCutByReset p :: rest) ∧ decode p = .malformed
        ∧ s.fetchEvent = .malformed) := by
  unfold State.fetchEvent
  rcases hs : s.inbox with _ | ⟨ev, rest⟩
  · simp
  · cases ev with
    | hardwareReset => simp
    | packet p => cases hd : decode p <;> simp [hd]
    | packetCutByReset p => cases hd : decode p <;> simp [hd]

/-- What an engine inside a compression does next. -/
theorem fetchStep_cases (s : State) (c : Caller) :
    (∃ rest, s.inbox = .hardwareReset :: rest ∧ s.fetchStep c = .reset { s with inbox := rest })
    ∨ (s.inbox.head? ≠ some .hardwareReset ∧ ∃ i, decodeStep s.t = some i ∧ s.fetchStep c = .step c i)
    ∨ (s.inbox.head? ≠ some .hardwareReset ∧ decodeStep s.t = none ∧ s.fetchStep c = .stuck) := by
  unfold State.fetchStep
  rcases hs : s.inbox with _ | ⟨ev, rest⟩
  · cases hd : decodeStep s.t <;> simp
  · cases ev <;> cases hd : decodeStep s.t <;> simp

/-- A sequencer step whose value is in range: the step at that place of the sequence, then what follows it. -/
theorem stepSequencer_eq (c : Caller) (s : State) (h : s.t.toNat < 48) :
    ∃ i, decodeStep s.t = some i
      ∧ stepSequencer c i s = .next (afterStep c s.t (stepSequence.getD s.t.toNat id s)) := by
  obtain ⟨i, hi, he⟩ := exec_decodeStep s.t.toNat h s
  rw [BitVec.ofNat_toNat, BitVec.setWidth_eq] at hi
  exact ⟨i, hi, by rw [stepSequencer, he]⟩

/-- Everything one step can do. -/
theorem step_cases (s : State) :
    (s.activity = .idle ∧ s.inbox = [] ∧ step s = .next s)
    ∨ (∃ rest, s.inbox = .hardwareReset :: rest ∧ step s = .next { s with inbox := rest }.hardwareReset)
    ∨ (s.activity = .idle ∧ ∃ p rest, s.inbox = .packetCutByReset p :: rest ∧ decode p ≠ .malformed
        ∧ step s = .next { s with inbox := rest }.hardwareReset)
    ∨ (s.activity = .idle ∧ ∃ p rest i, s.inbox = .packet p :: rest ∧ decode p = .command i
        ∧ step s = exec i { s with inbox := rest })
    ∨ (s.activity = .idle ∧ ∃ p rest, s.inbox = .packet p :: rest ∧ decode p = .illegal
        ∧ step s = .next { s with inbox := rest }.answerIllegal)
    ∨ (s.activity = .idle ∧ ∃ p rest, (s.inbox = .packet p :: rest ∨ s.inbox = .packetCutByReset p :: rest)
        ∧ decode p = .malformed ∧ step s = .refused .malformedPacket)
    ∨ (∃ c, s.activity = .compressing c ∧ s.inbox.head? ≠ some .hardwareReset
        ∧ ∃ i, decodeStep s.t = some i ∧ step s = stepSequencer c i s)
    ∨ (∃ c, s.activity = .compressing c ∧ s.inbox.head? ≠ some .hardwareReset ∧ decodeStep s.t = none
        ∧ step s = .fault .sequencerOutOfRange) := by
  unfold step State.fetch
  cases ha : s.activity with
  | idle =>
    rcases fetchEvent_cases s with ⟨h, e⟩ | ⟨r, h, e⟩ | ⟨p, r, i, h, d, e⟩ | ⟨p, r, h, d, e⟩ | ⟨p, r, h, d, e⟩ | ⟨p, r, h, d, e⟩
    · exact .inl ⟨rfl, h, by simp [e]⟩
    · exact .inr (.inl ⟨r, h, by simp [e, ha]⟩)
    · exact .inr (.inr (.inr (.inl ⟨rfl, p, r, i, h, d, by simp [e, ha]⟩)))
    · exact .inr (.inr (.inr (.inr (.inl ⟨rfl, p, r, h, d, by simp [e, ha]⟩))))
    · exact .inr (.inr (.inl ⟨rfl, p, r, h, d, by simp [e, ha]⟩))
    · exact .inr (.inr (.inr (.inr (.inr (.inl ⟨rfl, p, r, h, d, by simp [e]⟩)))))
  | compressing c =>
    rcases fetchStep_cases s c with ⟨r, h, e⟩ | ⟨h, i, d, e⟩ | ⟨h, d, e⟩
    · exact .inr (.inl ⟨r, h, by simp [e, ha]⟩)
    · exact .inr (.inr (.inr (.inr (.inr (.inr (.inl ⟨c, rfl, h, i, d, by simp [e]⟩))))))
    · exact .inr (.inr (.inr (.inr (.inr (.inr (.inr ⟨c, rfl, h, d, by simp [e]⟩))))))

/-- What the end of a block can do. -/
theorem State.endBlock_cases (s : State) (c : Caller) :
   ((s.endBlock c).halted = s.halted ∧ (s.endBlock c).params = s.params ∧ (s.endBlock c).inbox = s.inbox) ∧
   (((s.endBlock c).activity = s.activity ∧ (s.endBlock c).outbox = s.outbox) ∨ ((s.endBlock c).activity = .idle ∧ ∃ p, (s.endBlock c).outbox = s.outbox ++ [okResponse p])) := by
  unfold State.endBlock
  simp only
  split
  · exact ⟨⟨rfl, rfl, rfl⟩, .inl ⟨rfl, rfl⟩⟩
  · cases c
    · exact ⟨⟨rfl, rfl, rfl⟩, .inr ⟨rfl, _, rfl⟩⟩
    · exact ⟨⟨rfl, rfl, rfl⟩, .inr ⟨rfl, _, rfl⟩⟩

/-- What a sequencer step can do to the flag, the configuration and the streams. -/
theorem stepSequencer_cases (s : State) (c : Caller) (i : Instr) (h : decodeStep s.t = some i) : ∃ t, stepSequencer c i s = .next t ∧ 
   (t.halted = s.halted ∧ t.params = s.params ∧ t.inbox = s.inbox) ∧
   ((t.activity = s.activity ∧ t.outbox = s.outbox) ∨ (t.activity = .idle ∧ ∃ p, t.outbox = s.outbox ++ [okResponse p])) := by
  have ht : s.t.toNat < 48 := by
    have := decodeStep_isSome s.t
    rw [h] at this; exact of_decide_eq_true this.symm
  obtain ⟨j, hj, e⟩ := stepSequencer_eq c s ht
  rw [h] at hj; cases hj
  refine ⟨_, e, ?_⟩
  obtain ⟨r, n, e2⟩ := stepSequence_stepLike (stepSequence.getD s.t.toNat id) (by rw [List.getD_eq_getElem _ _ (by simpa using ht)]; exact List.getElem_mem _) s
  rw [e2, afterStep]
  split
  · exact State.endBlock_cases { s with regs := r, t := n } c
  · exact ⟨⟨rfl, rfl, rfl⟩, .inl ⟨rfl, rfl⟩⟩

/-- Inside a compression, with no hardware reset presented, a step is the sequencer step. -/
theorem step_of_sequenced (s : State) (c : Caller) (i : Instr) (ha : s.activity = .compressing c) (hn : s.inbox.head? ≠ some .hardwareReset)
   (hi : decodeStep s.t = some i) : step s = stepSequencer c i s := by
  rcases step_cases s with ⟨h0, h1, e⟩ | ⟨r', h1, e⟩ | ⟨h0, p', r', h1, _, e⟩ | ⟨h0, p', r', i, h1, h2, e⟩ | ⟨h0, p', r', h1, h2, e⟩ | ⟨h0, p', r', h1, h2, e⟩ | ⟨c', h1, h2, i', h3, e⟩ | ⟨c, h1, h2, h3, e⟩
  · rw [ha] at h0; cases h0
  · rw [h1] at hn; exact absurd rfl hn
  · rw [ha] at h0; cases h0
  · rw [ha] at h0; cases h0
  · rw [ha] at h0; cases h0
  · rw [ha] at h0; cases h0
  · rw [ha] at h1; cases h1
    rw [hi] at h3; cases h3; exact e
  · rw [hi] at h3; cases h3

/-- A step changes the registers, and moves `t` on below 47 (R27). -/
theorem stepSequence_getD (n : Nat) (h : n < 48) (s : State) : ∃ r, stepSequence.getD n id s = { s with regs := r, t := if n < 47 then BitVec.ofNat 6 (n + 1) else s.t } := by
  interval_cases n <;> exact ⟨_, rfl⟩

end Sys2Proof.Machine
end

