-- ==== Sys2Proof/Tests/Slice0.lean ====
section
/-! SUPPORT. Tests. Expected values are those of spec/95_test_vectors.md (V numbers, Programs) and of the worked examples in the
rules. The `test_witness_…` theorems show that the hypotheses of a statement can be met, for each clause. -/

namespace Sys2Proof.Tests

open Sys2Proof.Machine

set_option Elab.async false

/-! ## Helpers -/

/-- The reset state in a given configuration. -/
def engine (msgCap pbCap : Nat) : State := { State.reset with params := { msgCap := msgCap, pbCap := pbCap } }

/-- The configuration of V38: MSG_CAP = 64, PB_CAP = 16. -/
def small : State := engine 64 16

/-- `small`, halted. -/
def stopped : State := { small with halted := true }

/-- `small` with one host event presented. -/
def facing (e : HostEvent) : State := { small with inbox := [e] }

/-- A compression of one block in progress at its step `n`, for the caller `c`. -/
def inBlock (c : Caller) (n : Nat) : State :=
  { (small.load (List.replicate 16 0#32)).beginCompression c with t := BitVec.ofNat 6 n }

/-- The registers of a next state. -/
def regsAfter : Out → Option Regs
  | .next s => some s.regs
  | .fault _ => none
  | .refused _ => none

/-- The last response of a next state. -/
def answer : Out → Option Packet
  | .next s => s.outbox.getLast?
  | .fault _ => none
  | .refused _ => none

/-- HALTED of a next state. -/
def haltedAfterOut : Out → Option Bool
  | .next s => some s.halted
  | .fault _ => none
  | .refused _ => none

/-- The outcome is the refusal of a malformed packet. -/
def refusedMalformed : Out → Bool
  | .refused r => decide (r = .malformedPacket)
  | .next _ => false
  | .fault _ => false

/-! ## WellFormed -/

theorem list_of_length {α : Type} (k : Nat) (x : α) : ∃ l : List α, l.length = k := ⟨List.replicate k x, List.length_replicate⟩

theorem test_wellFormed_refuses_pad_of_2_64_bytes : ∃ msg, msg.length = 2 ^ 64 ∧ ¬ WellFormed (.pad msg) := by
  obtain ⟨msg, h⟩ := list_of_length (2 ^ 64) 0x61#8
  exact ⟨msg, h, by simp [Instr.wellFormed, h]⟩

theorem test_wellFormed_refuses_digest_of_2_64_bytes : ∃ msg, msg.length = 2 ^ 64 ∧ ¬ WellFormed (.digest msg) := by
  obtain ⟨msg, h⟩ := list_of_length (2 ^ 64) 0x61#8
  exact ⟨msg, h, by simp [Instr.wellFormed, h]⟩

theorem test_wellFormed_refuses_compress_of_2_32_words : ∃ ws, ws.length = 2 ^ 32 ∧ ¬ WellFormed (.compress ws) := by
  obtain ⟨ws, h⟩ := list_of_length (2 ^ 32) 0#32
  exact ⟨ws, h, by simp [Instr.wellFormed, h]⟩

theorem test_wellFormed_accepts_small : WellFormed (.pad []) ∧ WellFormed (.compress [0#32]) ∧ WellFormed .step47 := by decide

/-! ## Decoding -/

theorem test_decode_commands :
    decode ⟨72, 0x000000000000000001#72⟩ = .command (.pad [])
    ∧ decode ⟨40, 0x0000000002#40⟩ = .command (.compress [])
    ∧ decode ⟨8, 0b00000011#8⟩ = .command .format
    ∧ decode ⟨136, 0x0000000400000003000000020000000104#136⟩ = .command (.setState 1#32 2#32 3#32 4#32)
    ∧ decode ⟨8, 0b00000101#8⟩ = .command .resetIv
    ∧ decode ⟨8, 0b00000110#8⟩ = .command .getState
    ∧ decode ⟨96, 0x636261000000000000000307#96⟩ = .command (.digest [0x61#8, 0x62#8, 0x63#8]) := by decide +kernel

/-- Program 3's COMPRESS packet in full. -/
theorem test_decode_program3_compress :
    decode ⟨552, 0x0000000000000070000000000000000000000000000000000000000000000000000000000000000000000000000000000080747365676964206567617373656d0000001002#552⟩
      = .command (.compress ([0x7373656d#32, 0x20656761#32, 0x65676964#32, 0x00807473#32]
          ++ List.replicate 10 0#32 ++ [0x70#32, 0#32])) := by decide +kernel

theorem test_decode_rejects_by_name :
    decode ⟨8, 0x00#8⟩ = .illegal ∧ decode ⟨8, 0x08#8⟩ = .illegal ∧ decode ⟨8, 0x13#8⟩ = .illegal
    ∧ decode ⟨96, 0x636261000000000000000507#96⟩ = .malformed ∧ decode ⟨9, 0x003#9⟩ = .malformed
    ∧ decode ⟨7, 0x03#7⟩ = .malformed := by decide +kernel

theorem test_decode_steps :
    ([(0b000000#6, .step00), (0b000001#6, .step01), (0b000010#6, .step02), (0b000011#6, .step03), (0b000100#6,
      .step04), (0b000101#6, .step05), (0b000110#6, .step06), (0b000111#6, .step07), (0b001000#6, .step08),
      (0b001001#6, .step09), (0b001010#6, .step10), (0b001011#6, .step11), (0b001100#6, .step12), (0b001101#6,
      .step13), (0b001110#6, .step14), (0b001111#6, .step15),
      (0b010000#6, .step16), (0b010001#6, .step17), (0b010010#6, .step18), (0b010011#6, .step19), (0b010100#6,
      .step20), (0b010101#6, .step21), (0b010110#6, .step22), (0b010111#6, .step23), (0b011000#6, .step24),
      (0b011001#6, .step25), (0b011010#6, .step26), (0b011011#6, .step27), (0b011100#6, .step28), (0b011101#6,
      .step29), (0b011110#6, .step30), (0b011111#6, .step31),
      (0b100000#6, .step32), (0b100001#6, .step33), (0b100010#6, .step34), (0b100011#6, .step35), (0b100100#6,
      .step36), (0b100101#6, .step37), (0b100110#6, .step38), (0b100111#6, .step39), (0b101000#6, .step40),
      (0b101001#6, .step41), (0b101010#6, .step42), (0b101011#6, .step43), (0b101100#6, .step44), (0b101101#6,
      .step45), (0b101110#6, .step46), (0b101111#6, .step47)] : List (BitVec 6 × Instr)).all
      (fun q => decide (decodeStep q.1 = some q.2)) = true ∧ decodeStep 0b110000#6 = none := by decide +kernel

theorem test_decodeTableWord :
    decodeTableWord 8 0x07 = some (.digest []) ∧ decodeTableWord 8 0x04 = some (.setState 0#32 0#32 0#32 0#32)
    ∧ decodeTableWord 6 0x01 = some .step01 ∧ decodeTableWord 8 0x2F = some .step47 ∧ decodeTableWord 8 0x30 = none := by
  decide +kernel

/-- Program 1: `DIGEST ""` placed as the first packet after reset. -/
theorem test_withFetchWord_digest :
    answer (step (State.reset.withFetchWord 8 0x07)) = some ⟨136, 0xc089c0e0d7593cb731e96ad1e0cfd63100#136⟩ := by
  decide +kernel

/-! ## Word operations (V10 to V19) -/

theorem test_words :
    (0xffffffff#32 + 0x00000001#32 = 0#32) ∧ (0x67452301#32 + 0xefcdab89#32 = 0x5712ce8a#32)
    ∧ rotl32 0x80000001#32 3 = 0x0000000c#32 ∧ rotl32 0x12345678#32 19 = 0xb3c091a2#32
    ∧ fnF 0xffff0000#32 0x12345678#32 0x9abcdef0#32 = 0x1234def0#32
    ∧ fnG 0xffff0000#32 0x12345678#32 0x9abcdef0#32 = 0x9abc5670#32
    ∧ fnH 0xffff0000#32 0x12345678#32 0x9abcdef0#32 = 0x77778888#32
    ∧ bswap32 0xe0cfd631#32 = 0x31d6cfe0#32
    ∧ le32 0x61#8 0x62#8 0x63#8 0x80#8 = 0x80636261#32 ∧ be32 0x61#8 0x62#8 0x63#8 0x80#8 = 0x61626380#32 := by
  decide +kernel

/-- V37: the length words of `2^29 + 3` and `2^61 - 1` bytes. -/
theorem test_length_words :
    lo32 (bitLength (2 ^ 29 + 3)) = 0x18#32 ∧ hi32 (bitLength (2 ^ 29 + 3)) = 1#32
    ∧ lo32 (bitLength (2 ^ 61 - 1)) = 0xfffffff8#32 ∧ hi32 (bitLength (2 ^ 61 - 1)) = 0xffffffff#32 := by decide +kernel

/-! ## Commands -/

/-- Program 3's first response (V24). -/
theorem test_pad :
    answer (exec (.pad [0x6d#8, 0x65#8, 0x73#8, 0x73#8, 0x61#8, 0x67#8, 0x65#8, 0x20#8, 0x64#8, 0x69#8, 0x67#8, 0x65#8, 0x73#8, 0x74#8]) small)
      = some ⟨552, 0x0000000000000070000000000000000000000000000000000000000000000000000000000000000000000000000000000080747365676964206567617373656d0000001000#552⟩ := by
  decide +kernel

/-- V38: 55 bytes fit, 56 do not. -/
theorem test_pad_capacity :
    (answer (exec (.pad (List.replicate 55 0x61#8)) small)).map Packet.len = some 552
    ∧ answer (exec (.pad (List.replicate 56 0x61#8)) small) = some ⟨8, 0x01#8⟩
    ∧ answer (exec (.pad (List.replicate 65 0x61#8)) small) = some ⟨8, 0x01#8⟩ := by decide +kernel

/-- V42. -/
theorem test_compress :
    regsAfter (exec (.compress (List.replicate 16 0#32)) small)
      = some ⟨0x015155ef#32, 0x2e5f67ab#32, 0x3681c98d#32, 0x7447ab15#32⟩ := by decide +kernel

/-- V54, V55, V49. -/
theorem test_compress_faults :
    haltedAfterOut (exec (.compress (List.replicate 15 0#32)) small) = some true
    ∧ answer (exec (.compress (List.replicate 15 0#32)) small) = some ⟨8, 0x02#8⟩
    ∧ answer (exec (.compress (List.replicate 17 0#32)) small) = some ⟨8, 0x01#8⟩
    ∧ answer (exec (.compress []) small) = some ⟨8, 0x00#8⟩ := by decide +kernel

/-- V56, V58. -/
theorem test_format :
    answer (exec .format small) = some ⟨136, 0x1032547698badcfeefcdab896745230100#136⟩
    ∧ answer (exec .format { small with regs := ⟨0#32, 0#32, 0#32, 0x80000001#32⟩ })
      = some ⟨136, 0x8000000100000000000000000000000000#136⟩ := by decide +kernel

/-- V62. -/
theorem test_setState :
    regsAfter (exec (.setState 0xdeadbeef#32 0#32 0xffffffff#32 0x12345678#32) small)
      = some ⟨0xdeadbeef#32, 0#32, 0xffffffff#32, 0x12345678#32⟩ := by decide +kernel

/-- V62, and Program 5's refusal. -/
theorem test_resetIv :
    regsAfter (exec .resetIv { small with regs := ⟨1#32, 2#32, 3#32, 4#32⟩ }) = some Config.iv
    ∧ answer (exec .resetIv stopped) = some ⟨8, 0x04#8⟩ := by decide +kernel

/-- V61, Program 1. -/
theorem test_getState :
    answer (exec .getState State.reset) = some ⟨136, 0x1032547698badcfeefcdab896745230100#136⟩ := by decide +kernel

/-- V3 and Program 1; the registers end at the IV. -/
theorem test_digest :
    answer (exec (.digest [0x61#8, 0x62#8, 0x63#8]) State.reset) = some ⟨136, 0x9d72a67ae80ac15f52d821af7a0148a400#136⟩
    ∧ regsAfter (exec (.digest [0x61#8, 0x62#8, 0x63#8]) State.reset) = some Config.iv := by decide +kernel

/-- V77: from the zero state, `8b447ae02dab1a0ef31b8dbcb8116c4a`. -/
theorem test_digest_set_state :
    answer (exec (.digest [0x61#8, 0x62#8, 0x63#8]) { State.reset with regs := ⟨0#32, 0#32, 0#32, 0#32⟩ })
      = some ⟨136, 0x4a6c11b8bc8d1bf30e1aab2de07a448b00#136⟩ := by decide +kernel

/-! ## The 48 steps: the worked example of each of the rules R130 to R177 (V20) -/

/-- The block of the empty message in PB, the registers as given. -/
def emptyBlock (r : Regs) : State := { State.reset.load (0x80#32 :: List.replicate 15 0#32) with regs := r }

/-- For each `n`: the step selected by `n`, on the registers before it, leaves the registers after it. -/
def stepsAgree (first : Nat) (before : List Regs) (after : List Regs) : Bool :=
  ((List.range after.length).zip (before.zip after)).all fun q =>
    match decodeStep (BitVec.ofNat 6 (first + q.1)) with
    | some i => decide (regsAfter (exec i (emptyBlock q.2.1)) = some q.2.2)
    | none => false

/-- The registers after steps 0 to 15. -/
def traceRound1 : List Regs :=
  [⟨0x000003f8#32, 0xefcdab89#32, 0x98badcfe#32, 0x10325476#32⟩,
   ⟨0x000003f8#32, 0xefcdab89#32, 0x98badcfe#32, 0x769a0254#32⟩,
   ⟨0x000003f8#32, 0xefcdab89#32, 0x0446b910#32, 0x769a0254#32⟩,
   ⟨0x000003f8#32, 0x740f9e7d#32, 0x0446b910#32, 0x769a0254#32⟩,
   ⟨0x34b4e040#32, 0x740f9e7d#32, 0x0446b910#32, 0x769a0254#32⟩,
   ⟨0x34b4e040#32, 0x740f9e7d#32, 0x0446b910#32, 0x704dd255#32⟩,
   ⟨0x34b4e040#32, 0x740f9e7d#32, 0x6c2bc1c2#32, 0x704dd255#32⟩,
   ⟨0x34b4e040#32, 0xf5ef256b#32, 0x6c2bc1c2#32, 0x704dd255#32⟩,
   ⟨0xc7059cb4#32, 0xf5ef256b#32, 0x6c2bc1c2#32, 0x704dd255#32⟩,
   ⟨0xc7059cb4#32, 0xf5ef256b#32, 0x6c2bc1c2#32, 0xbe8bdbae#32⟩,
   ⟨0xc7059cb4#32, 0xf5ef256b#32, 0x8bf5399c#32, 0xbe8bdbae#32⟩,
   ⟨0xc7059cb4#32, 0x18be2386#32, 0x8bf5399c#32, 0xbe8bdbae#32⟩,
   ⟨0xaddcb303#32, 0x18be2386#32, 0x8bf5399c#32, 0xbe8bdbae#32⟩,
   ⟨0xaddcb303#32, 0x18be2386#32, 0x8bf5399c#32, 0xa483a664#32⟩,
   ⟨0xaddcb303#32, 0x18be2386#32, 0x8ee8f245#32, 0xa483a664#32⟩,
   ⟨0xaddcb303#32, 0x3665f296#32, 0x8ee8f245#32, 0xa483a664#32⟩]

/-- The registers after steps 16 to 31. -/
def traceRound2 : List Regs :=
  [⟨0x7a08fb05#32, 0x3665f296#32, 0x8ee8f245#32, 0xa483a664#32⟩,
   ⟨0x7a08fb05#32, 0x3665f296#32, 0x8ee8f245#32, 0xade24047#32⟩,
   ⟨0x7a08fb05#32, 0x3665f296#32, 0x98bbca4f#32, 0xade24047#32⟩,
   ⟨0x7a08fb05#32, 0x66cec932#32, 0x98bbca4f#32, 0xade24047#32⟩,
   ⟨0x0bb1e72c#32, 0x66cec932#32, 0x98bbca4f#32, 0xade24047#32⟩,
   ⟨0x0bb1e72c#32, 0x66cec932#32, 0x98bbca4f#32, 0x6410a1c2#32⟩,
   ⟨0x0bb1e72c#32, 0x66cec932#32, 0x9e4a14b3#32, 0x6410a1c2#32⟩,
   ⟨0x0bb1e72c#32, 0x3d0db9ec#32, 0x9e4a14b3#32, 0x6410a1c2#32⟩,
   ⟨0x11e8953d#32, 0x3d0db9ec#32, 0x9e4a14b3#32, 0x6410a1c2#32⟩,
   ⟨0x11e8953d#32, 0x3d0db9ec#32, 0x9e4a14b3#32, 0x7b76231b#32⟩,
   ⟨0x11e8953d#32, 0x3d0db9ec#32, 0x727f1264#32, 0x7b76231b#32⟩,
   ⟨0x11e8953d#32, 0xc8d84161#32, 0x727f1264#32, 0x7b76231b#32⟩,
   ⟨0x374891bf#32, 0xc8d84161#32, 0x727f1264#32, 0x7b76231b#32⟩,
   ⟨0x374891bf#32, 0xc8d84161#32, 0x727f1264#32, 0x0a15c329#32⟩,
   ⟨0x374891bf#32, 0xc8d84161#32, 0xb49a4dae#32, 0x0a15c329#32⟩,
   ⟨0x374891bf#32, 0x6f952b2e#32, 0xb49a4dae#32, 0x0a15c329#32⟩]

/-- The registers after steps 32 to 47. -/
def traceRound3 : List Regs :=
  [⟨0xb9e91c4b#32, 0x6f952b2e#32, 0xb49a4dae#32, 0x0a15c329#32⟩,
   ⟨0xb9e91c4b#32, 0x6f952b2e#32, 0xb49a4dae#32, 0xac532bb7#32⟩,
   ⟨0xb9e91c4b#32, 0x6f952b2e#32, 0x1ab10ced#32, 0xac532bb7#32⟩,
   ⟨0xb9e91c4b#32, 0x28f076bd#32, 0x1ab10ced#32, 0xac532bb7#32⟩,
   ⟨0x36aace9e#32, 0x28f076bd#32, 0x1ab10ced#32, 0xac532bb7#32⟩,
   ⟨0x36aace9e#32, 0x28f076bd#32, 0x1ab10ced#32, 0x31984c40#32⟩,
   ⟨0x36aace9e#32, 0x28f076bd#32, 0x6f678dca#32, 0x31984c40#32⟩,
   ⟨0x36aace9e#32, 0xb8b9000f#32, 0x6f678dca#32, 0x31984c40#32⟩,
   ⟨0x5e5bde24#32, 0xb8b9000f#32, 0x6f678dca#32, 0x31984c40#32⟩,
   ⟨0x5e5bde24#32, 0xb8b9000f#32, 0x6f678dca#32, 0xef178453#32⟩,
   ⟨0x5e5bde24#32, 0xb8b9000f#32, 0xb69f1f41#32, 0xef178453#32⟩,
   ⟨0x5e5bde24#32, 0x187317b3#32, 0xb69f1f41#32, 0xef178453#32⟩,
   ⟨0x798ab330#32, 0x187317b3#32, 0xb69f1f41#32, 0xef178453#32⟩,
   ⟨0x798ab330#32, 0x187317b3#32, 0xb69f1f41#32, 0xb0576c6a#32⟩,
   ⟨0x798ab330#32, 0x187317b3#32, 0x3e9e5fb9#32, 0xb0576c6a#32⟩,
   ⟨0x798ab330#32, 0x421bbf48#32, 0x3e9e5fb9#32, 0xb0576c6a#32⟩]

theorem test_steps_round1 : stepsAgree 0 (Config.iv :: traceRound1) traceRound1 = true := by decide +kernel

theorem test_steps_round2 :
    stepsAgree 16 (⟨0xaddcb303#32, 0x3665f296#32, 0x8ee8f245#32, 0xa483a664#32⟩ :: traceRound2) traceRound2 = true := by
  decide +kernel

theorem test_steps_round3 :
    stepsAgree 32 (⟨0x374891bf#32, 0x6f952b2e#32, 0xb49a4dae#32, 0x0a15c329#32⟩ :: traceRound3) traceRound3 = true := by
  decide +kernel

/-- Step 47 in the machine: the feed-forward of V20 follows, and the command ends with OK. -/
theorem test_step47_ends_the_block :
    regsAfter (step { ((State.reset.load (0x80#32 :: List.replicate 15 0#32)).beginCompression .compress) with
        regs := ⟨0x798ab330#32, 0x187317b3#32, 0x3e9e5fb9#32, 0xb0576c6a#32⟩, t := 47#6 })
      = some ⟨0xe0cfd631#32, 0x31e96ad1#32, 0xd7593cb7#32, 0xc089c0e0#32⟩ := by decide +kernel

/-! ## Steps of the machine -/

/-- Program 5: reserved headers, and a halted engine. -/
theorem test_step_reserved_header :
    answer (step (facing (.packet ⟨8, 0x09#8⟩))) = some ⟨8, 0x03#8⟩
    ∧ answer (step (facing (.packet ⟨8, 0x13#8⟩))) = some ⟨8, 0x03#8⟩
    ∧ answer (step { facing (.packet ⟨8, 0x09#8⟩) with halted := true }) = some ⟨8, 0x04#8⟩ := by decide +kernel

/-- R72's example: a DIGEST header with `L = 5` and three bytes. -/
theorem test_step_malformed :
    refusedMalformed (step (facing (.packet ⟨96, 0x636261000000000000000507#96⟩))) = true := by decide +kernel

/-- Program 5's end: hardware reset. -/
theorem test_step_hardwareReset :
    haltedAfterOut (step { facing .hardwareReset with halted := true }) = some false
    ∧ regsAfter (step { facing .hardwareReset with regs := ⟨1#32, 2#32, 3#32, 4#32⟩ }) = some Config.iv
    ∧ regsAfter (step { inBlock .digest 5 with inbox := [.hardwareReset] }) = some Config.iv := by decide +kernel

/-! ## The assembler (R75, R76) -/

theorem test_assemble_digest :
    assembleLine "DIGEST \"abc\"   ; a comment".toList = some [.digest [0x61#8, 0x62#8, 0x63#8]]
    ∧ assembleLine "PAD 3*\"ab\"  -> OK".toList
      = some [.pad [0x61#8, 0x62#8, 0x61#8, 0x62#8, 0x61#8, 0x62#8]]
    ∧ assembleLine "COMPRESS".toList = some [.compress []] ∧ assembleLine "FORMAT x".toList = none := by decide +kernel

/-- Program 4's LOAD_DIGEST, and MD4's expansion. -/
theorem test_assemble_pseudo :
    assembleLine "LOAD_DIGEST hex:f14e75ac1f5460f6ca842da11ff961e3".toList
      = some [.setState 0xac754ef1#32 0xf660541f#32 0xa12d84ca#32 0xe361f91f#32]
    ∧ assembleLine "MD4 \"\"".toList = some [.resetIv, .digest []]
    ∧ assembleLine "COMPRESS_BYTES hex:61626380".toList = some [.compress [0x80636261#32]] := by decide +kernel

/-! ## Witnesses for the hypotheses of the statements -/

/-- A DIGEST packet of one byte. -/
def onePacket : Packet := ⟨80, 0x61000000000000000107#80⟩

theorem test_witness_EncodeThenDecode : WellFormed (.pad []) ∧ WellFormed (.compress [0xffffffff#32]) ∧ WellFormed .step47 := by
  decide

theorem test_witness_DecodeThenEncode :
    decodeBits (.packet onePacket) = some (.digest [0x61#8]) ∧ decodeBits (.sequencer 47#6) = some .step47 := by decide +kernel

theorem test_witness_DecoderVerdict :
    (8 ≤ (⟨8, 0x10#8⟩ : Packet).len ∧ (⟨8, 0x10#8⟩ : Packet).field 4 4 ≠ 0#4)
    ∧ (8 ≤ (⟨8, 0x00#8⟩ : Packet).len ∧ (⟨8, 0x00#8⟩ : Packet).field 0 4 = 0#4)
    ∧ (8 ≤ (⟨9, 0x008#9⟩ : Packet).len ∧ 8 ≤ ((⟨9, 0x008#9⟩ : Packet).field 0 4).toNat)
    ∧ (8 ≤ onePacket.len ∧ onePacket.field 4 4 = 0#4 ∧ (onePacket.field 0 4).toNat = 7
        ∧ onePacket.len = lengthByFormat (onePacket.field 0 4).toNat (onePacket.field 8 64).toNat (onePacket.field 8 32).toNat)
    ∧ (8 ≤ (⟨8, 0x01#8⟩ : Packet).len ∧ (⟨8, 0x01#8⟩ : Packet).field 4 4 = 0#4 ∧ ((⟨8, 0x01#8⟩ : Packet).field 0 4).toNat = 1
        ∧ (⟨8, 0x01#8⟩ : Packet).len ≠ lengthByFormat 1 ((⟨8, 0x01#8⟩ : Packet).field 8 64).toNat 0) := by decide +kernel

theorem test_witness_WrongLengthIsRefused :
    let p : Packet := ⟨9, 0x003#9⟩
    (facing (.packet p)).activity = .idle ∧ (facing (.packet p)).inbox = [.packet p]
    ∧ 8 ≤ p.len ∧ p.field 4 4 = 0#4 ∧ 1 ≤ (p.field 0 4).toNat ∧ (p.field 0 4).toNat ≤ 7
    ∧ p.len ≠ lengthByFormat (p.field 0 4).toNat (p.field 8 64).toNat (p.field 8 32).toNat := by decide +kernel

/-- Seven bits are no header, to a halted engine either. -/
theorem test_witness_WrongLengthIsRefused_short :
    let p : Packet := ⟨7, 0x03#7⟩
    let s : State := { facing (.packet p) with halted := true }
    s.activity = .idle ∧ s.inbox = [.packet p] ∧ p.len < 8 := by decide +kernel

theorem test_witness_ResponseLayout :
    (List.replicate 16 0xff#8).length = 16 ∧ ([0xffffffff#32] : List Word).length < 2 ^ 32 := by decide +kernel

theorem test_witness_StepRunsTheDecodedCommand :
    (facing (.packet onePacket)).activity = .idle ∧ (facing (.packet onePacket)).inbox = [.packet onePacket]
    ∧ decode onePacket = .command (.digest [0x61#8]) := by decide +kernel

theorem test_witness_StepRunsTheSequencedStep :
    (∃ s', (inBlock .compress 0).activity = .compressing .compress ∧ (inBlock .compress 0).inbox.head? ≠ some .hardwareReset
        ∧ decodeStep (inBlock .compress 0).t = some .step00 ∧ exec .step00 (inBlock .compress 0) = .next s'
        ∧ (inBlock .compress 0).t ≠ 47#6)
    ∧ (∃ s', exec .step47 { inBlock .digest 47 with wcnt := 32#32 } = .next s'
        ∧ decodeStep 47#6 = some .step47 ∧ (s'.blk + 1#28).toNat < s'.wcnt.toNat / 16)
    ∧ (∃ s', exec .step47 (inBlock .digest 47) = .next s' ∧ ¬ (s'.blk + 1#28).toNat < s'.wcnt.toNat / 16
        ∧ (inBlock .digest 47).t = 47#6 ∧ (inBlock .digest 47).activity = .compressing .digest)
    ∧ (∃ s', exec .step47 (inBlock .compress 47) = .next s' ∧ ¬ (s'.blk + 1#28).toNat < s'.wcnt.toNat / 16
        ∧ (inBlock .compress 47).t = 47#6 ∧ (inBlock .compress 47).activity = .compressing .compress) := by
  refine ⟨⟨_, ?_, ?_, ?_, rfl, ?_⟩, ⟨_, rfl, ?_, ?_⟩, ⟨_, rfl, ?_, ?_, ?_⟩, ⟨_, rfl, ?_, ?_, ?_⟩⟩ <;> decide +kernel

theorem test_witness_WaitingChangesNothing : State.reset.activity = .idle ∧ State.reset.inbox = [] := by decide +kernel

theorem test_witness_HardwareResetAtAnyTime :
    ({ inBlock .digest 5 with inbox := [.hardwareReset] } : State).inbox = [.hardwareReset]
    ∧ (facing (.packetCutByReset onePacket)).activity = .idle
    ∧ (facing (.packetCutByReset onePacket)).inbox = [.packetCutByReset onePacket] ∧ decode onePacket ≠ .malformed := by
  decide +kernel

theorem test_witness_StepsFollowTheRoundLists : 0 < 48 ∧ 46 < 48 ∧ 47 < 48 := by decide

theorem test_witness_StepsChangeOneRegister :
    decodeStep (BitVec.ofNat 6 47) = some .step47 ∧ exec .step47 small = .next (step47 small) := ⟨by decide, rfl⟩

theorem test_witness_RotationIsCircular : (1 : Nat) ≤ 31 ∧ (31 : Nat) ≤ 31 ∧ (31 : Nat) < 32 := by decide

theorem test_witness_PaddingCounts :
    (55 % 64 ≤ 55) ∧ (55 < 56 % 64) ∧ ((63 : Nat) < 64 ∧ (56 + 1 + 63) % 64 = 56) := by decide

theorem test_witness_messages_fit :
    small.params.valid ∧ small.halted = false
    ∧ small.messageFits 0 ∧ small.messageFits 55 ∧ ¬ small.messageFits 56 ∧ ¬ small.messageFits 65
    ∧ (engine 64 32).params.valid ∧ (engine 64 32).messageFits 64 ∧ ¬ (engine 64 32).messageFits 65
    ∧ stopped.halted = true ∧ stopped.params.valid := by decide +kernel

theorem test_witness_FramingFillsThePaddedBuffer :
    small.params.valid ∧ small.messageFits (List.replicate 55 0x61#8).length := by decide +kernel

theorem test_witness_PadCommand :
    (stopped.params.valid ∧ stopped.halted = true)
    ∧ (small.params.valid ∧ small.halted = false ∧ ¬ small.messageFits (List.replicate 56 0x61#8).length)
    ∧ (small.halted = false ∧ small.messageFits (List.replicate 55 0x61#8).length) := by decide +kernel

theorem test_witness_CompressCommand :
    (stopped.params.valid ∧ stopped.halted = true)
    ∧ (small.params.valid ∧ small.halted = false ∧ small.params.pbCap < (List.replicate 17 0#32).length)
    ∧ ((List.replicate 15 0#32).length ≤ small.params.pbCap ∧ (List.replicate 15 0#32).length % 16 ≠ 0)
    ∧ ((List.replicate 16 0#32).length ≤ small.params.pbCap ∧ (List.replicate 16 0#32).length % 16 = 0) := by decide +kernel

theorem test_witness_CompressOfNothing : small.halted = false := by decide

theorem test_witness_CompressChains :
    (engine 64 32).params.valid ∧ (engine 64 32).halted = false ∧ (List.replicate 16 0#32).length % 16 = 0
    ∧ (List.replicate 16 0#32).length + (List.replicate 16 1#32).length ≤ (engine 64 32).params.pbCap := by decide +kernel

theorem test_witness_register_commands : stopped.halted = true ∧ small.halted = false := by decide

theorem test_witness_SetStateCommand :
    small.halted = false ∧ exec (.setState 1#32 2#32 3#32 4#32) small
      = .next ((small.setRegs ⟨1#32, 2#32, 3#32, 4#32⟩).respond .empty) := ⟨rfl, rfl⟩

theorem test_witness_FormatIsABijection : (List.replicate 16 0xff#8).length = 16 := by decide

theorem test_witness_DigestCommand :
    (stopped.params.valid ∧ stopped.halted = true)
    ∧ (small.params.valid ∧ small.halted = false ∧ ¬ small.messageFits (List.replicate 56 0x61#8).length)
    ∧ (small.halted = false ∧ small.messageFits (List.replicate 55 0x61#8).length) := by decide +kernel

theorem test_witness_DigestIsPadCompressFormatReset :
    small.params.valid ∧ small.halted = false ∧ small.messageFits ([] : List Byte).length ∧ small.regs = Config.iv := by
  decide +kernel

theorem test_witness_SetStateIsUsedOnce :
    small.params.valid ∧ small.halted = false ∧ small.messageFits ([0x61#8] : List Byte).length
    ∧ small.messageFits ([] : List Byte).length := by decide +kernel

theorem test_witness_DigestIsDeterministic :
    small.params.valid ∧ (engine 64 32).params.valid ∧ small.halted = false ∧ (engine 64 32).halted = false
    ∧ small.regs = Config.iv ∧ (engine 64 32).regs = Config.iv ∧ small.messageFits ([0x61#8] : List Byte).length
    ∧ (engine 64 32).messageFits ([0x61#8] : List Byte).length := by decide +kernel

/-- The configuration of Program 4: `secretdata` and its padding are one block, `append` makes a second. -/
theorem test_witness_LengthExtension :
    let m : List Byte := [0x73#8, 0x65#8, 0x63#8, 0x72#8, 0x65#8, 0x74#8, 0x64#8, 0x61#8, 0x74#8, 0x61#8]
    let extra : List Byte := [0x61#8, 0x70#8, 0x70#8, 0x65#8, 0x6e#8, 0x64#8]
    (engine 256 80).params.valid ∧ (engine 256 80).halted = false
    ∧ (engine 256 80).messageFits (m ++ paddingOf m.length ++ extra).length
    ∧ (List.replicate 10 0#8 : List Byte).length = m.length := by decide +kernel

theorem test_witness_PseudoInstructionsDoWhatTheySay :
    small.params.valid ∧ small.halted = false ∧ small.messageFits ([0x61#8] : List Byte).length
    ∧ (List.replicate 16 1#8 : List Byte).length = 16
    ∧ (List.replicate 64 1#8 : List Byte).length % 64 = 0 ∧ (List.replicate 64 1#8 : List Byte).length / 4 ≤ small.params.pbCap := by
  decide +kernel

theorem test_witness_HaltedRefusesEveryPacket :
    (Instr.isCommand .resetIv = true ∧ stopped.halted = true)
    ∧ (let s : State := { facing (.packet ⟨8, 0x09#8⟩) with halted := true }
       s.activity = .idle ∧ s.halted = true ∧ s.inbox = [.packet ⟨8, 0x09#8⟩] ∧ decode ⟨8, 0x09#8⟩ ≠ .malformed)
    ∧ (haltedAfterOut (step { facing .hardwareReset with halted := true }) = some false) := by decide +kernel

theorem test_witness_ReservedHeaderAnswersIllegal :
    let p : Packet := ⟨8, 0x08#8⟩
    let q : Packet := ⟨9, 0x0F7#9⟩
    (facing (.packet p)).activity = .idle ∧ (facing (.packet p)).halted = false ∧ (facing (.packet p)).inbox = [.packet p]
    ∧ 8 ≤ p.len ∧ 8 ≤ (p.field 0 4).toNat ∧ 8 ≤ q.len ∧ q.field 4 4 ≠ 0#4 := by decide +kernel

/-- A COMPRESS packet of one word. -/
def oneWord : Packet := ⟨72, 0x000000000000000102#72⟩

theorem test_witness_OnlyAlignSetsHalted :
    (facing (.packet oneWord)).halted = false ∧ haltedAfterOut (step (facing (.packet oneWord))) = some true := by decide +kernel

theorem test_witness_FaultsWriteNothing :
    Instr.isCommand (.compress [0#32]) = true ∧ answer (exec (.compress [0#32]) small) = some ⟨8, 0x02#8⟩
    ∧ (⟨8, 0x02#8⟩ : Packet).field 0 4 ≠ 0#4 := by decide +kernel

theorem test_witness_EveryCommandIsAnsweredOnce :
    Instr.isCommand (.pad []) = true ∧ Instr.isCommand .getState = true ∧ Instr.isCommand .step00 = false := by decide +kernel

theorem test_witness_StepKeepsTheInvariant :
    (inBlock .digest 47).Inv ∧ (haltedAfterOut (step (inBlock .digest 47)) = some false)
    ∧ (facing (.packet onePacket)).Inv ∧ (haltedAfterOut (step (facing (.packet onePacket))) = some false) := by decide +kernel

theorem test_witness_EngineNeverStops :
    (facing (.packet onePacket)).Inv ∧ (∀ e ∈ (facing (.packet onePacket)).inbox, e.legal = true) := by decide +kernel

theorem test_witness_AtomicCommandIsSequencerRun :
    small.params.valid ∧ small.halted = false ∧ small.inbox.head? ≠ some .hardwareReset
    ∧ (List.replicate 16 0#32) ≠ [] ∧ (List.replicate 16 0#32).length % 16 = 0
    ∧ (List.replicate 16 0#32).length ≤ small.params.pbCap ∧ small.messageFits ([] : List Byte).length := by decide +kernel

theorem test_witness_TransientStateIsUnobservable :
    (facing (.packet onePacket)).activity = .idle
    ∧ (facing (.packet onePacket)).hostView
      = ({ facing (.packet onePacket) with epoch := 7, wcnt := 5#32, pb := [(0, 9#32)], t := 63#6 } : State).hostView := by
  decide +kernel

theorem test_witness_WhatChangesTheRegisters :
    (facing (.packet ⟨136, 0x0000000400000003000000020000000104#136⟩)).activity = .idle
    ∧ regsAfter (step (facing (.packet ⟨136, 0x0000000400000003000000020000000104#136⟩)))
      = some ⟨1#32, 2#32, 3#32, 4#32⟩ := by decide +kernel

theorem test_witness_NothingIsAcceptedDuringACompression :
    (inBlock .digest 47).activity = .compressing .digest ∧ (inBlock .digest 47).inbox.head? ≠ some .hardwareReset
    ∧ haltedAfterOut (step (inBlock .digest 47)) = some false ∧ haltedAfterOut (step (inBlock .digest 0)) = some false := by
  decide +kernel

theorem test_witness_ConfigurationNeverChanges : step State.reset = .next State.reset := rfl

end Sys2Proof.Tests
end

section
/-! PROOF. The operations of the data path: the round functions, the rotation, the byte orders (00_scope.md R11), and what a
step leaves unchanged. -/

namespace Sys2Proof.Machine

/-! ## The round functions, bit by bit (R123) -/

/-- F selects: `y` where `x` has a 1, `z` where it has a 0. -/
theorem getLsbD_fnF (x y z : Word) (i : Nat) :
    (fnF x y z).getLsbD i = if x.getLsbD i then y.getLsbD i else z.getLsbD i := by
  by_cases hi : i < 32
  · simp only [fnF, BitVec.getLsbD_or, BitVec.getLsbD_and, BitVec.getLsbD_not, hi, decide_true, Bool.true_and]
    cases x.getLsbD i <;> simp
  · simp [BitVec.getLsbD_of_ge _ i (Nat.le_of_not_lt hi)]

/-- G is the majority. -/
theorem getLsbD_fnG (x y z : Word) (i : Nat) :
    (fnG x y z).getLsbD i
      = decide (2 ≤ (x.getLsbD i).toNat + (y.getLsbD i).toNat + (z.getLsbD i).toNat) := by
  simp only [fnG, BitVec.getLsbD_or, BitVec.getLsbD_and]
  generalize x.getLsbD i = p, y.getLsbD i = q, z.getLsbD i = r
  revert p q r; decide

/-- H is the parity. -/
theorem getLsbD_fnH (x y z : Word) (i : Nat) :
    (fnH x y z).getLsbD i
      = decide (((x.getLsbD i).toNat + (y.getLsbD i).toNat + (z.getLsbD i).toNat) % 2 = 1) := by
  simp only [fnH, BitVec.getLsbD_xor]
  generalize x.getLsbD i = p, y.getLsbD i = q, z.getLsbD i = r
  revert p q r; decide

/-- Settles O18: the three round functions at one bit. -/
theorem roundFunctionsBitwise : Obligations.RoundFunctionsBitwise := fun x y z i =>
  ⟨getLsbD_fnF x y z i, getLsbD_fnG x y z i, getLsbD_fnH x y z i⟩

/-! ## The rotation and the sum of a step (R111) -/

/-- The rotation moves bit `i` up by `s` places; the bits pushed out at the top come back at the bottom. -/
theorem getLsbD_rotl32 (v : Word) (s i : Nat) (hs : s ≤ 31) (hi : i < 32) :
    (rotl32 v s).getLsbD ((i + s) % 32) = v.getLsbD i := by
  simp only [rotl32, BitVec.getLsbD_or, BitVec.getLsbD_shiftLeft, BitVec.getLsbD_ushiftRight]
  by_cases h : i + s < 32
  · have hout : v.getLsbD (32 - s + (i + s)) = false := BitVec.getLsbD_of_ge _ _ (by omega)
    simp [Nat.mod_eq_of_lt h, h, hout]
  · have hwrap : (i + s) % 32 = i + s - 32 := by omega
    have hback : 32 - s + (i + s - 32) = i := by omega
    have hlow : i + s - 32 < s := by omega
    simp [hwrap, hback, hlow]

/-- A step's sum wraps modulo 2^32. -/
theorem stepValue_eq_sum (f : Word → Word → Word → Word) (a b c d x k : Word) (s : Nat) :
    stepValue f a b c d x k s
      = rotl32 (BitVec.ofNat 32 ((a.toNat + (f b c d).toNat + x.toNat + k.toNat) % 2 ^ 32)) s := by
  have hsum : a + f b c d + x + k = BitVec.ofNat 32 ((a.toNat + (f b c d).toNat + x.toNat + k.toNat) % 2 ^ 32) := by
    apply BitVec.eq_of_toNat_eq
    simp only [BitVec.toNat_add, BitVec.toNat_ofNat]
    omega
  rw [stepValue, hsum]

/-- Settles O19: the rotation bit by bit, and the step's value through its sum. -/
theorem rotationIsCircular : Obligations.RotationIsCircular :=
  ⟨fun v s i _ hs hi => getLsbD_rotl32 v s i hs hi, stepValue_eq_sum⟩

/-! ## The byte orders (R45, R46) -/

/-- Swapping the bytes of a word is assembling them in the opposite order. -/
theorem bswap32_be32 (b0 b1 b2 b3 : Byte) : bswap32 (be32 b0 b1 b2 b3) = be32 b3 b2 b1 b0 := by
  obtain ⟨h0, h1, h2, h3⟩ := byteOf_be32 b0 b1 b2 b3
  rw [bswap32, h0, h1, h2, h3, be32]

/-- Swapping twice gives the word back: a word is assembled from its bytes. -/
@[simp] theorem bswap32_bswap32 (v : Word) : bswap32 (bswap32 v) = v := by
  rw [← be32_byteOf v, bswap32_be32, bswap32_be32]

/-- Settles O20: the swap is the opposite order of assembly. -/
theorem byteOrders : Obligations.ByteOrders := fun b0 b1 b2 b3 =>
  ⟨le32_toNat b0 b1 b2 b3, be32_toNat b0 b1 b2 b3, bswap32_be32 b0 b1 b2 b3, bswap32_bswap32⟩

/-! ## The frame of a step (R131) -/

/-- The instruction selected by `n` answers with the step at place `n` of the sequence. -/
theorem eq_of_exec_decodeStep {n : Nat} (hn : n < 48) {i : Instr} {s u : State}
    (hi : decodeStep (BitVec.ofNat 6 n) = some i) (hu : exec i s = .next u) : u = stepSequence.getD n id s := by
  obtain ⟨j, hj, he⟩ := exec_decodeStep n hn s
  cases hi.symm.trans hj
  cases hu.symm.trans he
  rfl

/-- Step `n` writes the register in role `a` and no other. -/
theorem readReg_stepSequence_of_ne {n : Nat} (hn : n < 48) (s : State) {r : Reg} (hr : r ≠ (rolesAt (n % 16)).1) :
    readReg (stepSequence.getD n id s).regs r = readReg s.regs r := by
  obtain ⟨hregs, _⟩ := stepSequence_row n hn s
  rw [hregs]
  exact readReg_writeReg_of_ne _ _ hr

/-- Settles O17: the registers by the step's row, every other field by the shape of the state a step answers. -/
theorem stepsChangeOneRegister : Obligations.StepsChangeOneRegister := by
  intro n i s u hn hi hu
  cases eq_of_exec_decodeStep hn hi hu
  refine ⟨fun r hr => readReg_stepSequence_of_ne hn s hr, ?_⟩
  obtain ⟨r, he⟩ := stepSequence_getD n hn s
  rw [he]
  exact ⟨rfl, rfl, fun _ => rfl, fun _ => rfl, rfl, rfl, rfl, rfl, rfl, rfl, rfl⟩

end Sys2Proof.Machine
end

section
/-! PROOF. The invariant `State.Inv`: it holds at reset, and every step of the machine keeps it. -/

namespace Sys2Proof.Machine

/-! ## What an instruction does to the buffers -/

/-- From `s` to `t` the configuration, the buffers and the activity stay. -/
def State.BuffersKept (s t : State) : Prop :=
  t.params = s.params ∧ t.mb = s.mb ∧ t.pb = s.pb ∧ t.activity = s.activity

/-- From `s` to `t` the configuration stays, the buffers are given up, and no command is in progress (R33). -/
def State.BuffersReleased (s t : State) : Prop :=
  t.params = s.params ∧ t.mb = [] ∧ t.pb = [] ∧ t.activity = .idle

/-- A fault writes no buffer (R230). -/
theorem State.raise_buffersKept (s : State) (f : FaultCode) : s.BuffersKept (s.raise f) := ⟨rfl, rfl, rfl, rfl⟩

/-- A step of the sequencer writes a register and `t` (R131). -/
theorem State.roundStep_buffersKept (s : State) (ra rb rc rd : Reg) (f : Word → Word → Word → Word) (k : Nat) (K : Word)
    (sh : Nat) (n : BitVec 6) : s.BuffersKept (s.roundStep ra rb rc rd f k K sh n) := ⟨rfl, rfl, rfl, rfl⟩

theorem State.hardwareReset_buffersReleased (s : State) : s.BuffersReleased s.hardwareReset := ⟨rfl, rfl, rfl, rfl⟩

theorem State.finish_buffersReleased (s : State) (c : Caller) : s.BuffersReleased (s.finish c) := by
  cases c <;> exact ⟨rfl, rfl, rfl, rfl⟩

/-- The commands without a data packet keep the buffers if the state `u` they answer without a fault does. -/
theorem State.buffersKept_of_access {s t u : State}
    (h : (match accessFault s with | some f => .next (s.raise f) | none => .next u) = (.next t : Out))
    (hu : s.BuffersKept u) : s.BuffersKept t := by
  rcases access_cases s u with ⟨_, e⟩ | ⟨_, e⟩ <;> cases e.symm.trans h
  · exact s.raise_buffersKept .halted
  · exact hu

/-- An instruction keeps the buffers or, at the end of PAD, COMPRESS or DIGEST, gives them up. -/
theorem exec_buffers {i : Instr} {s t : State} (h : exec i s = .next t) : s.BuffersKept t ∨ s.BuffersReleased t := by
  cases i
  case pad msg =>
    rcases execPad_cases msg s with ⟨f, _, e⟩ | ⟨_, e⟩ <;> cases e.symm.trans h
    · exact .inl (s.raise_buffersKept f)
    · exact .inr ⟨rfl, rfl, rfl, rfl⟩
  case compress words =>
    rcases execCompress_cases words s with ⟨f, _, e⟩ | ⟨_, e⟩ <;> cases e.symm.trans h
    · exact .inl (s.raise_buffersKept f)
    · exact .inr ⟨State.compressAll_params (s.load words), rfl, rfl, rfl⟩
  case digest msg =>
    rcases execDigest_cases msg s with ⟨f, _, e⟩ | ⟨_, e⟩ <;> cases e.symm.trans h
    · exact .inl (s.raise_buffersKept f)
    · exact .inr ⟨State.compressAll_params (s.receive msg).frame, rfl, rfl, rfl⟩
  case format => exact .inl (State.buffersKept_of_access h ⟨rfl, rfl, rfl, rfl⟩)
  case setState a b c d => exact .inl (State.buffersKept_of_access h ⟨rfl, rfl, rfl, rfl⟩)
  case resetIv => exact .inl (State.buffersKept_of_access h ⟨rfl, rfl, rfl, rfl⟩)
  case getState => exact .inl (State.buffersKept_of_access h ⟨rfl, rfl, rfl, rfl⟩)
  all_goals
    cases h
    exact .inl (State.roundStep_buffersKept ..)

/-! ## When the invariant holds -/

/-- A waiting engine with a valid configuration and nothing listed in its buffers. -/
theorem State.Inv.of_empty {s : State} (hv : s.params.valid) (hm : s.mb = []) (hp : s.pb = []) (ha : s.activity = .idle) :
    s.Inv :=
  ⟨hv, by simp [hm, Buffer.wf], by simp [hm], by simp [hp, Buffer.wf], by simp [hp], .inl ha⟩

theorem State.Inv.of_buffersReleased {s t : State} (hs : s.Inv) (h : s.BuffersReleased t) : t.Inv := by
  obtain ⟨hparams, hmb, hpb, hidle⟩ := h
  exact .of_empty (hparams ▸ hs.1) hmb hpb hidle

/-- Between commands the invariant speaks only of what is kept. -/
theorem State.Inv.of_buffersKept {s t : State} (hs : s.Inv) (ha : s.activity = .idle) (h : s.BuffersKept t) : t.Inv := by
  obtain ⟨hparams, hmb, hpb, hact⟩ := h
  obtain ⟨hv, hmwf, hmb_lt, hpwf, hpb_lt, _⟩ := hs
  exact ⟨hparams ▸ hv, hmb ▸ hmwf, by rwa [hmb, hparams], hpb ▸ hpwf, by rwa [hpb, hparams], .inl (hact.trans ha)⟩

/-- Inside a compression the steps, the snapshot and the feed-forward write the registers, the snapshot and the sequencer
only: what the invariant says of the rest stays, and the sequencer has to be in bounds again. -/
theorem State.Inv.of_sequencer {s : State} (hs : s.Inv) (r q : Regs) (b : BitVec 28) (n : BitVec 6)
    (hseq : s.sequencerInBounds → n.toNat < 48 ∧ b.toNat < s.blocks) :
    State.Inv { s with regs := r, snap := q, blk := b, t := n } := by
  obtain ⟨hv, hmwf, hmb_lt, hpwf, hpb_lt, hact⟩ := hs
  refine ⟨hv, hmwf, hmb_lt, hpwf, hpb_lt, hact.imp_right fun hin => ?_⟩
  obtain ⟨hn, hb⟩ := hseq hin
  obtain ⟨hrun, _, haligned, hcap, _⟩ := hin
  exact ⟨hrun, hn, haligned, hcap, hb⟩

/-- The sequencer's step keeps the invariant: `t` moves on below 47 and stays at 47 (R27). -/
theorem State.Inv.stepSequence_getD {s : State} (hs : s.Inv) (ht : s.t.toNat < 48) :
    (stepSequence.getD s.t.toNat id s).Inv := by
  obtain ⟨r, e⟩ := Machine.stepSequence_getD s.t.toNat ht s
  rw [e]
  refine hs.of_sequencer r s.snap s.blk _ fun ⟨_, _, _, _, hblk⟩ => ⟨?_, hblk⟩
  split
  · rw [BitVec.toNat_ofNat]; omega
  · exact ht

/-- The end of a block keeps the invariant: the next block starts only when `blk` is below the number of blocks (R27, R113). -/
theorem State.Inv.endBlock {s : State} (hs : s.Inv) (c : Caller) : (s.endBlock c).Inv := by
  unfold State.endBlock
  simp only
  split
  next hblk => exact hs.of_sequencer _ _ (s.blk + 1#28) 0#6 fun _ => ⟨by decide, hblk⟩
  next => exact hs.of_buffersReleased (s.feedForward.finish_buffersReleased c)

/-- A step inside a compression keeps the invariant. -/
theorem State.Inv.stepSequencer {s t : State} (hs : s.Inv) {c : Caller} {i : Instr} (hi : decodeStep s.t = some i)
    (h : Machine.stepSequencer c i s = .next t) : t.Inv := by
  have ht : s.t.toNat < 48 := by simpa [hi] using decodeStep_isSome s.t
  obtain ⟨j, hj, e⟩ := stepSequencer_eq c s ht
  cases hi.symm.trans hj
  cases e.symm.trans h
  unfold afterStep
  split
  · exact (hs.stepSequence_getD ht).endBlock c
  · exact hs.stepSequence_getD ht

/-- A command on a waiting engine keeps the invariant. -/
theorem State.Inv.exec {s t : State} (hs : s.Inv) (ha : s.activity = .idle) {i : Instr} (h : Machine.exec i s = .next t) :
    t.Inv :=
  (exec_buffers h).elim (hs.of_buffersKept ha) hs.of_buffersReleased

/-- The largest configuration of R8 is within its bounds. -/
theorem largest_valid : Config.largest.valid := by decide

/-- Settles O45: at reset the engine waits and its buffers list nothing. -/
theorem resetMeetsTheInvariant : Obligations.ResetMeetsTheInvariant :=
  State.Inv.of_empty largest_valid rfl rfl rfl

/-- Settles O46: by cases on what the step is. Taking an event from the host's stream leaves what the invariant speaks of. -/
theorem stepKeepsTheInvariant : Obligations.StepKeepsTheInvariant := by
  intro s t hs h
  have htaken (rest : List HostEvent) : State.Inv { s with inbox := rest } := hs
  rcases step_cases s with ⟨_, _, e⟩ | ⟨rest, _, e⟩ | ⟨_, _, rest, _, _, e⟩ | ⟨ha, _, rest, i, _, _, e⟩
    | ⟨ha, _, rest, _, _, e⟩ | ⟨_, _, _, _, _, e⟩ | ⟨c, _, _, i, hi, e⟩ | ⟨_, _, _, _, e⟩
  · cases e.symm.trans h -- the engine waits
    exact hs
  · cases e.symm.trans h -- hardware reset
    exact (htaken rest).of_buffersReleased (State.hardwareReset_buffersReleased _)
  · cases e.symm.trans h -- a packet cut short by hardware reset
    exact (htaken rest).of_buffersReleased (State.hardwareReset_buffersReleased _)
  · exact (htaken rest).exec ha (e.symm.trans h) -- a command
  · cases e.symm.trans h -- a packet with a reserved header
    exact (htaken rest).of_buffersKept ha (State.raise_buffersKept _ _)
  · cases e.symm.trans h -- a malformed packet: no next state
  · exact hs.stepSequencer hi (e.symm.trans h) -- a step of the sequencer
  · cases e.symm.trans h -- no step is selected: no next state

end Sys2Proof.Machine
end

section
/-! PROOF. The engine between commands: what a step of a waiting engine is for each event, what hardware reset leaves, and what
changes the registers, HALTED, the configuration and the responses (10_state.md R22 to R28). -/

namespace Sys2Proof.Machine

/-! ## The host's view of each operation -/

@[simp] theorem State.hostView_takeEvent (s : State) (rest : List HostEvent) :
    State.hostView { s with inbox := rest } = { s.hostView with inbox := rest } := rfl

@[simp] theorem State.hostView_receive (s : State) (msg : List Byte) : (s.receive msg).hostView = s.hostView := rfl

@[simp] theorem State.hostView_load (s : State) (words : List Word) : (s.load words).hostView = s.hostView := rfl

@[simp] theorem State.hostView_release (s : State) : s.release.hostView = { s.hostView with activity := .idle } := rfl

@[simp] theorem State.hostView_setRegs (s : State) (r : Regs) : (s.setRegs r).hostView = { s.hostView with regs := r } := rfl

@[simp] theorem State.hostView_respond (s : State) (p : Payload) :
    (s.respond p).hostView = { s.hostView with outbox := s.hostView.outbox ++ [okResponse p] } := rfl

@[simp] theorem State.hostView_raise (s : State) (f : FaultCode) :
    (s.raise f).hostView = { s.hostView with
      halted := haltedAfter f s.hostView.halted, outbox := s.hostView.outbox ++ [faultResponse f] } := rfl

@[simp] theorem State.hostView_hardwareReset (s : State) :
    s.hardwareReset.hostView = { s.hostView with regs := Config.iv, halted := false, activity := .idle } := rfl

@[simp] theorem State.hostView_finishCompress (s : State) :
    s.finishCompress.hostView
      = { s.hostView with activity := .idle, outbox := s.hostView.outbox ++ [okResponse .empty] } := rfl

@[simp] theorem State.hostView_finishDigest (s : State) :
    s.finishDigest.hostView = { s.hostView with
      regs := Config.iv, activity := .idle,
      outbox := s.hostView.outbox ++ [okResponse (.digest (formatDigest s.hostView.regs))] } := rfl

/-- A compression changes nothing the host can see but the registers. -/
@[simp] theorem State.hostView_compressAll (s : State) :
    s.compressAll.hostView = { s.hostView with regs := s.compressAll.regs } := by
  obtain ⟨r, q, t, b, e⟩ := s.compressAll_frame
  rw [e]; rfl

/-! ## A step of a waiting engine, by the host's next event -/

section
variable {s : State} {rest : List HostEvent} {p : Packet}

theorem step_of_nothingPresented (ha : s.activity = .idle) (hin : s.inbox = []) : step s = .next s := by
  simp [step, State.fetch, State.fetchEvent, ha, hin]

/-- Hardware reset is taken inside a compression as well. -/
theorem step_of_hardwareReset (hin : s.inbox = .hardwareReset :: rest) :
    step s = .next { s with inbox := rest }.hardwareReset := by
  cases ha : s.activity <;> simp [step, State.fetch, State.fetchEvent, State.fetchStep, ha, hin]

theorem step_of_packetCutByReset (ha : s.activity = .idle) (hin : s.inbox = .packetCutByReset p :: rest)
    (hd : decode p ≠ .malformed) : step s = .next { s with inbox := rest }.hardwareReset := by
  cases hv : decode p with
  | malformed => exact absurd hv hd
  | command i => simp [step, State.fetch, State.fetchEvent, ha, hin, hv]
  | illegal => simp [step, State.fetch, State.fetchEvent, ha, hin, hv]

theorem step_of_command {i : Instr} (ha : s.activity = .idle) (hin : s.inbox = .packet p :: rest)
    (hd : decode p = .command i) : step s = exec i { s with inbox := rest } := by
  simp [step, State.fetch, State.fetchEvent, ha, hin, hd]

theorem step_of_reservedHeader (ha : s.activity = .idle) (hin : s.inbox = .packet p :: rest) (hd : decode p = .illegal) :
    step s = .next { s with inbox := rest }.answerIllegal := by
  simp [step, State.fetch, State.fetchEvent, ha, hin, hd]

theorem step_of_malformed (ha : s.activity = .idle)
    (hin : s.inbox = .packet p :: rest ∨ s.inbox = .packetCutByReset p :: rest) (hd : decode p = .malformed) :
    step s = .refused .malformedPacket := by
  rcases hin with hin | hin <;> simp [step, State.fetch, State.fetchEvent, ha, hin, hd]

end

/-! ## Hardware reset (R25, R260) -/

/-- Settles O10: the fields of the reset state. -/
theorem resetState : Obligations.ResetState := ⟨rfl, rfl, rfl⟩

/-- Settles O11: both events lead to the reset state with the event taken. -/
theorem hardwareResetAtAnyTime : Obligations.HardwareResetAtAnyTime :=
  ⟨fun _ _ hin => ⟨_, step_of_hardwareReset hin, rfl⟩,
   fun _ _ _ ha hin hd => ⟨_, step_of_packetCutByReset ha hin hd, rfl⟩⟩

/-! ## A command as a fault or a result -/

/-- What every command answers: the first fault of R238, or the state it computes. -/
def State.answerOr (s : State) (fault : Option FaultCode) (result : State) : Out :=
  match fault with
  | some f => .next (s.raise f)
  | none => .next result

section
variable (s : State)

theorem exec_pad (msg : List Byte) : exec (.pad msg) s = s.answerOr (messageFault s msg.length)
    ((s.receive msg).frame.release.respond (.words (s.receive msg).frame.storedWords)) := rfl

theorem exec_compress (words : List Word) : exec (.compress words) s = s.answerOr (wordsFault s words.length)
    (s.load words).compressAll.finishCompress := rfl

theorem exec_digest (msg : List Byte) : exec (.digest msg) s = s.answerOr (messageFault s msg.length)
    (s.receive msg).frame.compressAll.finishDigest := rfl

theorem exec_format :
    exec .format s = s.answerOr (accessFault s) (s.respond (.digest (formatDigest s.regs))) := rfl

theorem exec_setState (a b c d : Word) : exec (.setState a b c d) s = s.answerOr (accessFault s)
    ((s.setRegs { a := a, b := b, c := c, d := d }).respond .empty) := rfl

theorem exec_resetIv : exec .resetIv s = s.answerOr (accessFault s) ((s.setRegs Config.iv).respond .empty) := rfl

theorem exec_getState : exec .getState s = s.answerOr (accessFault s) (s.respond (.state s.regs)) := rfl

end

/-- A fault writes no register (R230), so a command whose result keeps the registers keeps them. -/
theorem State.regs_of_answerOr {s t u : State} {fault : Option FaultCode} (h : s.answerOr fault u = .next t)
    (hu : u.regs = s.regs) : t.regs = s.regs := by
  cases fault with
  | none => cases h; exact hu
  | some f => cases h; rfl

/-- The commands that keep A to D are PAD, FORMAT and GET_STATE (R24, R26). -/
theorem exec_command_regs {i : Instr} {s t : State} (hc : i.isCommand = true) (h : exec i s = .next t) :
    t.regs = s.regs ∨ (∃ a b c d, i = .setState a b c d) ∨ i = .resetIv ∨ (∃ ws, i = .compress ws) ∨ ∃ m, i = .digest m := by
  cases i
  case pad msg => exact .inl (State.regs_of_answerOr ((exec_pad s msg).symm.trans h) rfl)
  case format => exact .inl (State.regs_of_answerOr ((exec_format s).symm.trans h) rfl)
  case getState => exact .inl (State.regs_of_answerOr ((exec_getState s).symm.trans h) rfl)
  case setState a b c d => exact .inr (.inl ⟨a, b, c, d, rfl⟩)
  case resetIv => exact .inr (.inr (.inl rfl))
  case compress words => exact .inr (.inr (.inr (.inl ⟨words, rfl⟩)))
  case digest msg => exact .inr (.inr (.inr (.inr ⟨msg, rfl⟩)))
  all_goals cases hc

/-- A reserved header changes no flag: its fault is ILLEGAL, or HALTED in a halted engine (R235, R238). -/
theorem State.answerIllegal_halted (s : State) : s.answerIllegal.halted = s.halted := by
  unfold State.answerIllegal
  split <;> rfl

/-! ## What changes the registers, HALTED, the configuration and the responses -/

/-- Settles O50: by cases on what the step is. -/
theorem whatChangesTheRegisters : Obligations.WhatChangesTheRegisters := by
  intro s t ha h hne
  rcases step_cases s with ⟨_, _, e⟩ | ⟨rest, hin, _⟩ | ⟨_, p, rest, hin, _⟩ | ⟨_, p, rest, i, hin, hd, e⟩
    | ⟨_, _, _, _, _, e⟩ | ⟨_, _, _, _, _, e⟩ | ⟨_, hact, _⟩ | ⟨_, hact, _⟩
  · cases e.symm.trans h -- the engine waits
    exact absurd rfl hne
  · exact .inl ⟨rest, hin⟩
  · exact .inr (.inl ⟨p, rest, hin⟩)
  · have hi := (exec_command_regs (isCommand_of_decode hd) (e.symm.trans h)).resolve_left hne -- a command
    exact .inr (.inr ⟨p, rest, i, hin, hd, hi⟩)
  · cases e.symm.trans h -- a packet with a reserved header
    exact absurd rfl hne
  · cases e.symm.trans h -- a malformed packet: no next state
  · cases ha.symm.trans hact
  · cases ha.symm.trans hact

/-- Settles O42: of all steps only a command that takes ALIGN sets the flag. -/
theorem onlyAlignSetsHalted : Obligations.OnlyAlignSetsHalted := by
  intro s t h hrun hhalt
  rcases step_cases s with ⟨_, _, e⟩ | ⟨rest, _, e⟩ | ⟨_, _, rest, _, _, e⟩ | ⟨ha, p, rest, i, hin, hd, e⟩
    | ⟨_, _, rest, _, _, e⟩ | ⟨_, _, _, _, _, e⟩ | ⟨c, _, _, i, hi, e⟩ | ⟨_, _, _, _, e⟩
  · cases e.symm.trans h -- the engine waits
    simp [hrun] at hhalt
  · cases e.symm.trans h -- hardware reset
    simp at hhalt
  · cases e.symm.trans h -- a packet cut short by hardware reset
    simp at hhalt
  · obtain ⟨u, hu, hcases⟩ := exec_command_cases i { s with inbox := rest } (isCommand_of_decode hd)
    cases hu.symm.trans (e.symm.trans h)
    rcases hcases with ⟨hh, _⟩ | ⟨_, rfl⟩ | ⟨_, ⟨ws, rfl, hle, hmod⟩, rfl⟩ | ⟨_, hh, _⟩
    · simp [hrun] at hh -- HALTED
    · simp [haltedAfter, hrun] at hhalt -- CAPACITY
    · exact ⟨ha, p, rest, ws, hin, hd, hle, hmod, rfl⟩ -- ALIGN
    · simp [hh] at hhalt -- the command succeeds
  · cases e.symm.trans h -- a packet with a reserved header
    simp [State.answerIllegal_halted, hrun] at hhalt
  · cases e.symm.trans h -- a malformed packet: no next state
  · obtain ⟨u, hu, ⟨hh, _⟩, _⟩ := stepSequencer_cases s c i hi -- a step of the sequencer
    cases hu.symm.trans (e.symm.trans h)
    simp [hh, hrun] at hhalt
  · cases e.symm.trans h -- no step is selected: no next state

/-- From `s` to `t` the configuration stays, and the responses grow by at most one. -/
def State.AnswersAtMostOnce (s t : State) : Prop :=
  t.params = s.params ∧ (t.outbox = s.outbox ∨ ∃ rsp, t.outbox = s.outbox ++ [rsp])

theorem State.raise_answersAtMostOnce (s : State) (f : FaultCode) : s.AnswersAtMostOnce (s.raise f) :=
  ⟨rfl, .inr ⟨_, rfl⟩⟩

theorem State.hardwareReset_answersAtMostOnce (s : State) : s.AnswersAtMostOnce s.hardwareReset := ⟨rfl, .inl rfl⟩

theorem exec_command_answersAtMostOnce {i : Instr} {s t : State} (hc : i.isCommand = true) (h : exec i s = .next t) :
    s.AnswersAtMostOnce t := by
  obtain ⟨u, hu, hcases⟩ := exec_command_cases i s hc
  cases hu.symm.trans h
  rcases hcases with ⟨_, rfl⟩ | ⟨_, rfl⟩ | ⟨_, _, rfl⟩ | ⟨_, _, hparams, _, p, hout⟩
  · exact s.raise_answersAtMostOnce _
  · exact s.raise_answersAtMostOnce _
  · exact s.raise_answersAtMostOnce _
  · exact ⟨hparams, .inr ⟨_, hout⟩⟩

theorem stepSequencer_answersAtMostOnce {s t : State} {c : Caller} {i : Instr} (hi : decodeStep s.t = some i)
    (h : stepSequencer c i s = .next t) : s.AnswersAtMostOnce t := by
  obtain ⟨u, hu, ⟨_, hparams, _⟩, hout⟩ := stepSequencer_cases s c i hi
  cases hu.symm.trans h
  rcases hout with ⟨_, hout⟩ | ⟨_, p, hout⟩
  · exact ⟨hparams, .inl hout⟩
  · exact ⟨hparams, .inr ⟨_, hout⟩⟩

/-- Settles O52: by cases on what the step is. -/
theorem configurationNeverChanges : Obligations.ConfigurationNeverChanges := by
  intro s t h
  rcases step_cases s with ⟨_, _, e⟩ | ⟨rest, _, e⟩ | ⟨_, _, rest, _, _, e⟩ | ⟨_, _, rest, i, _, hd, e⟩
    | ⟨_, _, rest, _, _, e⟩ | ⟨_, _, _, _, _, e⟩ | ⟨c, _, _, i, hi, e⟩ | ⟨_, _, _, _, e⟩
  · cases e.symm.trans h -- the engine waits
    exact ⟨rfl, .inl rfl⟩
  · cases e.symm.trans h -- hardware reset
    exact State.hardwareReset_answersAtMostOnce _
  · cases e.symm.trans h -- a packet cut short by hardware reset
    exact State.hardwareReset_answersAtMostOnce _
  · exact exec_command_answersAtMostOnce (s := { s with inbox := rest }) (isCommand_of_decode hd) (e.symm.trans h)
  · cases e.symm.trans h -- a packet with a reserved header
    exact State.raise_answersAtMostOnce _ _
  · cases e.symm.trans h -- a malformed packet: no next state
  · exact stepSequencer_answersAtMostOnce hi (e.symm.trans h)
  · cases e.symm.trans h -- no step is selected: no next state

end Sys2Proof.Machine
end

section
/-! PROOF. No command's result depends on the transient state it finds (R34): every element of MB and PB that a command reads it
has written itself, so what the host sees after the command is a function of what it saw before. -/

namespace Sys2Proof.Machine

/-! ## What a command reads of the buffers it has filled

The counts stand as the registers LEN and WCNT hold them, so no bound of R8 is needed. -/

/-- The registers after compressing the words in PB: the blocks that WCNT counts, chained from the old registers. -/
theorem State.compressAll_load_regs_eq_chainBlocks (s : State) (words : List Word) :
    (s.load words).compressAll.regs = chainBlocks ((BitVec.ofNat 32 words.length).toNat / 16) s.regs words := by
  have hle : (BitVec.ofNat 32 words.length).toNat ≤ words.length := Nat.mod_le _ _
  have hlt := (BitVec.ofNat 32 words.length).isLt
  refine State.compressBlocks_regs words _ { s.load words with blk := 0#28 } (s.readPB_load_getD words) ?_ ?_
  · show 16 * (0 + (BitVec.ofNat 32 words.length).toNat / 16) ≤ _
    omega
  · show 0 + (BitVec.ofNat 32 words.length).toNat / 16 < _
    omega

/-- The words read back from PB: those that WCNT counts. -/
theorem State.storedWords_load_eq_take (s : State) (words : List Word) :
    (s.load words).storedWords = words.take (BitVec.ofNat 32 words.length).toNat := by
  have hle : (BitVec.ofNat 32 words.length).toNat ≤ words.length := Nat.mod_le _ _
  apply List.ext_getElem
  · simpa [State.storedWords] using hle
  · intro j hj _
    have hlt : j < (BitVec.ofNat 32 words.length).toNat := by simpa [State.storedWords] using hj
    simp [State.storedWords, s.readPB_load words j (by omega)]

/-- The padded bytes of a received message: its bytes up to the count in LEN, then the padding (R93). -/
theorem State.paddedByte_receive_eq (s : State) (msg : List Byte) (i : Nat) :
    (s.receive msg).paddedByte i = if i < (BitVec.ofNat 64 msg.length).toNat then msg.getD i 0#8
      else if i = (BitVec.ofNat 64 msg.length).toNat then 0x80#8 else 0x00#8 := by
  have hle : (BitVec.ofNat 64 msg.length).toNat ≤ msg.length := Nat.mod_le _ _
  rw [State.paddedByte, State.receive_len]
  split
  · rw [s.readMB_receive msg i (by omega), List.getD_eq_getElem]
  · rfl

/-- The framing of a received message depends on the message alone. -/
theorem State.framedWords_receive_congr (s u : State) (msg : List Byte) :
    (s.receive msg).framedWords = (u.receive msg).framedWords := by
  have hword : (s.receive msg).paddedWord = (u.receive msg).paddedWord := by
    funext j
    simp only [State.paddedWord, State.paddedByte_receive_eq]
  simp only [State.framedWords, hword, State.receive_len]

/-! ## The commands on two states with one view -/

section
variable {s u : State} (h : s.hostView = u.hostView)
include h

theorem messageFault_congr (L : Nat) : messageFault s L = messageFault u L := by
  have hhalted : s.halted = u.halted := congrArg HostView.halted h
  have hparams : s.params = u.params := congrArg HostView.params h
  rw [messageFault, messageFault, hhalted, hparams]

theorem wordsFault_congr (n : Nat) : wordsFault s n = wordsFault u n := by
  have hhalted : s.halted = u.halted := congrArg HostView.halted h
  have hparams : s.params = u.params := congrArg HostView.params h
  rw [wordsFault, wordsFault, hhalted, hparams]

theorem accessFault_congr : accessFault s = accessFault u := by
  have hhalted : s.halted = u.halted := congrArg HostView.halted h
  rw [accessFault, accessFault, hhalted]

/-- The same fault or results with one view give answers that the host cannot tell apart. -/
theorem State.answerOr_congr {e f : Option FaultCode} {t v : State} (hfault : e = f) (hresult : t.hostView = v.hostView) :
    hostViewOf (s.answerOr e t) = hostViewOf (u.answerOr f v) := by
  subst hfault
  cases e with
  | none => exact congrArg Host.Outcome.next hresult
  | some f => exact congrArg Host.Outcome.next (by simp [h])

theorem State.hostView_compressAll_load_congr (words : List Word) :
    (s.load words).compressAll.hostView = (u.load words).compressAll.hostView := by
  have hregs : s.regs = u.regs := congrArg HostView.regs h
  simp [State.compressAll_load_regs_eq_chainBlocks, h, hregs]

/-- A command gives answers that the host cannot tell apart. -/
theorem exec_command_congr {i : Instr} (hc : i.isCommand = true) : hostViewOf (exec i s) = hostViewOf (exec i u) := by
  have hregs : s.regs = u.regs := congrArg HostView.regs h
  cases i
  case pad msg =>
    rw [exec_pad, exec_pad]
    refine State.answerOr_congr h (messageFault_congr h _) ?_
    simp [State.frame, State.framedWords_receive_congr s u, State.storedWords_load_eq_take, h]
  case compress words =>
    rw [exec_compress, exec_compress]
    refine State.answerOr_congr h (wordsFault_congr h _) ?_
    rw [State.hostView_finishCompress, State.hostView_finishCompress, State.hostView_compressAll_load_congr h]
  case digest msg =>
    rw [exec_digest, exec_digest]
    refine State.answerOr_congr h (messageFault_congr h _) ?_
    have hview : (s.receive msg).frame.compressAll.hostView = (u.receive msg).frame.compressAll.hostView := by
      rw [State.frame, State.frame, State.framedWords_receive_congr s u]
      exact State.hostView_compressAll_load_congr (s := s.receive msg) (u := u.receive msg) h _
    rw [State.hostView_finishDigest, State.hostView_finishDigest, hview]
  case format =>
    rw [exec_format, exec_format]
    exact State.answerOr_congr h (accessFault_congr h) (by simp [h, hregs])
  case setState a b c d =>
    rw [exec_setState, exec_setState]
    exact State.answerOr_congr h (accessFault_congr h) (by simp [h])
  case resetIv =>
    rw [exec_resetIv, exec_resetIv]
    exact State.answerOr_congr h (accessFault_congr h) (by simp [h])
  case getState =>
    rw [exec_getState, exec_getState]
    exact State.answerOr_congr h (accessFault_congr h) (by simp [h, hregs])
  all_goals cases hc

theorem State.hostView_answerIllegal_congr : s.answerIllegal.hostView = u.answerIllegal.hostView := by
  have hhalted : s.halted = u.halted := congrArg HostView.halted h
  simp [State.answerIllegal, hhalted, h]

theorem State.hostView_takeEvent_congr (rest : List HostEvent) :
    State.hostView { s with inbox := rest } = State.hostView { u with inbox := rest } := by
  simp [h]

end

/-- Settles O49: by cases on the host's next event, which both states face. -/
theorem transientStateIsUnobservable : Obligations.TransientStateIsUnobservable := by
  intro s u ha h
  have hau : u.activity = .idle := (congrArg HostView.activity h).symm.trans ha
  have hinbox : u.inbox = s.inbox := (congrArg HostView.inbox h).symm
  have htaken := State.hostView_takeEvent_congr h
  rcases fetchEvent_cases s with ⟨hin, _⟩ | ⟨rest, hin, _⟩ | ⟨p, rest, i, hin, hd, _⟩ | ⟨p, rest, hin, hd, _⟩
    | ⟨p, rest, hin, hd, _⟩ | ⟨p, rest, hin, hd, _⟩
  · rw [step_of_nothingPresented ha hin, step_of_nothingPresented hau (hinbox.trans hin)]
    exact congrArg Host.Outcome.next h
  · rw [step_of_hardwareReset hin, step_of_hardwareReset (hinbox.trans hin)]
    exact congrArg Host.Outcome.next (by simp [h])
  · rw [step_of_command ha hin hd, step_of_command hau (hinbox.trans hin) hd]
    exact exec_command_congr (htaken rest) (isCommand_of_decode hd)
  · rw [step_of_reservedHeader ha hin hd, step_of_reservedHeader hau (hinbox.trans hin) hd]
    exact congrArg Host.Outcome.next (State.hostView_answerIllegal_congr (htaken rest))
  · rw [step_of_packetCutByReset ha hin hd, step_of_packetCutByReset hau (hinbox.trans hin) hd]
    exact congrArg Host.Outcome.next (by simp [h])
  · rw [step_of_malformed ha hin hd, step_of_malformed hau (hinbox.symm ▸ hin) hd]

end Sys2Proof.Machine
end

section
/-! PROOF. The sequencer: a step inside a compression, and the run of 48 steps per block, which ends in the state the atomic
command answers (R27, R54, R113, R264). -/

namespace Sys2Proof.Machine

/-! ## What follows the step that `t` selects -/

theorem afterStep_of_ne (c : Caller) {t : BitVec 6} (ht : t ≠ 47#6) (s : State) : afterStep c t s = s := if_neg ht

@[simp] theorem afterStep_last (c : Caller) (s : State) : afterStep c 47#6 s = s.endBlock c := rfl

/-- Blocks are left: the next one starts. -/
theorem State.endBlock_of_lt {s : State} (h : (s.blk + 1#28).toNat < s.blocks) (c : Caller) :
    s.endBlock c = s.feedForward.startBlock := if_pos h

/-- No block is left: the command ends. -/
theorem State.endBlock_of_not_lt {s : State} (h : ¬ (s.blk + 1#28).toNat < s.blocks) (c : Caller) :
    s.endBlock c = s.feedForward.finish c := if_neg h

/-- Settles O8: the step itself, and after step 47 the two ends of a block. -/
theorem stepRunsTheSequencedStep : Obligations.StepRunsTheSequencedStep := by
  intro s s' c i ha hin hi he
  have hstep : step s = .next (afterStep c s.t s') := by
    rw [step_of_sequenced s c i ha hin hi, stepSequencer, he]
  refine ⟨fun ht => ?_, fun ht hlt => ?_, fun ht hlt hc => ?_, fun ht hlt hc => ?_⟩
  · rw [hstep, afterStep_of_ne c ht]
  · rw [hstep, ht, afterStep_last, State.endBlock_of_lt hlt]
    rfl
  · subst hc
    exact ⟨_, by rw [hstep, ht, afterStep_last, State.endBlock_of_not_lt hlt], rfl⟩
  · subst hc
    exact ⟨_, by rw [hstep, ht, afterStep_last, State.endBlock_of_not_lt hlt], rfl⟩

/-! ## The 48 steps of a block, one by one -/

/-- A run in two parts. -/
theorem run_add_of_run {M : Host.Core} {n m : Nat} {s u : M.State} (h : M.run n s = .next u) :
    M.run (n + m) s = M.run m u := by
  induction n generalizing s with
  | zero => cases h; rw [Nat.zero_add]
  | succ n ih =>
    rw [Nat.add_right_comm]
    simp only [Host.Core.run] at h ⊢
    split at h
    · exact ih h
    · cases h
    · cases h

theorem run_one_of_step {M : Host.Core} {s u : M.State} (h : M.step s = .next u) : M.run 1 s = .next u := by
  simp only [Host.Core.run, h]

/-- A run of the machine behind the host's interface, on the model's own state. -/
def State.run (s : State) (n : Nat) : Out := Sys2Proof.core.run n s

@[simp] theorem State.run_zero (s : State) : s.run 0 = .next s := rfl

theorem State.run_add {n m : Nat} {s u : State} (h : s.run n = .next u) : s.run (n + m) = u.run m :=
  run_add_of_run (M := Sys2Proof.core) h

theorem State.run_succ {n : Nat} {s u t : State} (h : s.run n = .next u) (hstep : step u = .next t) :
    s.run (n + 1) = .next t :=
  (State.run_add h).trans (run_one_of_step (M := Sys2Proof.core) hstep)

/-- One step, at the value `n` of `t`. -/
theorem step_inCompression {s : State} {c : Caller} {n : Nat} (ha : s.activity = .compressing c)
    (hin : s.inbox.head? ≠ some .hardwareReset) (hn : n < 48) (ht : s.t = BitVec.ofNat 6 n) :
    step s = .next (afterStep c s.t (stepSequence.getD n id s)) := by
  obtain ⟨i, hi, he⟩ := exec_decodeStep n hn s
  rw [step_of_sequenced s c i ha hin (ht ▸ hi), stepSequencer, he]

/-- The first `n` steps of a block. -/
def State.runFirst (s : State) (n : Nat) : State := (stepSequence.take n).foldl (fun s f => f s) s

@[simp] theorem State.runFirst_zero (s : State) : s.runFirst 0 = s := rfl

theorem State.runFirst_succ (s : State) {n : Nat} (hn : n < 48) :
    s.runFirst (n + 1) = stepSequence.getD n id (s.runFirst n) := by
  rw [State.runFirst, List.take_add_one, List.foldl_append, ← State.runFirst, List.getD_eq_getElem _ _ hn,
    List.getElem?_eq_getElem hn]
  rfl

/-- All 48 are the steps of the block. -/
theorem State.runFirst_all (s : State) : s.runFirst 48 = s.runSteps := rfl

/-- The first `n` steps of a block write the registers, and leave `t` at `n` (R27). -/
theorem State.runFirst_frame {s : State} (ht : s.t = 0#6) {n : Nat} (hn : n ≤ 47) :
    ∃ r, s.runFirst n = { s with regs := r, t := BitVec.ofNat 6 n } := by
  induction n with
  | zero => exact ⟨s.regs, by rw [State.runFirst_zero, ← ht]⟩
  | succ n ih =>
    obtain ⟨r, e⟩ := ih (by omega)
    obtain ⟨r', e'⟩ := stepSequence_getD n (by omega) (s.runFirst n)
    exact ⟨r', by rw [State.runFirst_succ s (by omega), e', e, if_pos (by omega)]⟩

section
variable {s : State} {c : Caller} (ha : s.activity = .compressing c) (hin : s.inbox.head? ≠ some .hardwareReset)
include ha hin

/-- Below step 47 the machine runs the steps of the block and nothing else. -/
theorem run_runFirst (ht : s.t = 0#6) {n : Nat} (hn : n ≤ 47) : s.run n = .next (s.runFirst n) := by
  induction n with
  | zero => rfl
  | succ n ih =>
    obtain ⟨r, e⟩ := State.runFirst_frame ht (show n ≤ 47 by omega)
    have hne : BitVec.ofNat 6 n ≠ 47#6 := by
      rw [ne_eq, BitVec.toNat_eq, BitVec.toNat_ofNat, BitVec.toNat_ofNat]
      omega
    have hstep : step (s.runFirst n) = .next (s.runFirst (n + 1)) := by
      rw [step_inCompression (c := c) (n := n) (by rw [e]; exact ha) (by rw [e]; exact hin) (by omega) (by rw [e]),
        State.runFirst_succ s (by omega), afterStep_of_ne c (by rw [e]; exact hne)]
    exact State.run_succ (ih (by omega)) hstep

/-- The 48 steps of a block end with what follows step 47. -/
theorem run_block (ht : s.t = 0#6) : s.run 48 = .next (s.runSteps.endBlock c) := by
  obtain ⟨r, e⟩ := State.runFirst_frame ht (le_refl 47)
  have hstep : step (s.runFirst 47) = .next (s.runSteps.endBlock c) := by
    rw [step_inCompression (c := c) (n := 47) (by rw [e]; exact ha) (by rw [e]; exact hin) (by omega) (by rw [e]),
      ← State.runFirst_succ s (by omega), State.runFirst_all, show (s.runFirst 47).t = 47#6 by rw [e], afterStep_last]
  exact State.run_succ (run_runFirst ha hin ht (le_refl 47)) hstep

end

/-! ## The blocks of a compression -/

/-- WCNT counts fewer blocks than `blk` can number. -/
theorem State.blocks_lt (s : State) : s.blocks < 2 ^ 28 := by
  have := s.wcnt.isLt
  unfold State.blocks
  omega

/-- The end of a block that began at its start, as the block the atomic command runs. -/
theorem State.endBlock_runSteps_startBlock (s : State) (c : Caller) :
    s.startBlock.runSteps.endBlock c
      = if (s.blk + 1#28).toNat < s.blocks then s.compressBlock.startBlock else s.compressBlock.finish c := by
  obtain ⟨r, n, e⟩ := State.runSteps_stepLike s.startBlock
  rw [State.compressBlock, e]
  rfl

/-- `blk` does not wrap inside a compression. -/
theorem State.toNat_blk_add_one {s : State} (h : s.blk.toNat < s.blocks) : (s.blk + 1#28).toNat = s.blk.toNat + 1 := by
  have hlt := s.blocks_lt
  exact BitVec.toNat_add_of_lt (show s.blk.toNat + 1 < 2 ^ 28 by omega)

/-- The run of one block from its start: the next block starts, or the command ends. -/
theorem run_startBlock {s : State} {c : Caller} (ha : s.activity = .compressing c)
    (hin : s.inbox.head? ≠ some .hardwareReset) (hblk : s.blk.toNat < s.blocks) :
    s.startBlock.run 48
      = .next (if s.blk.toNat + 1 < s.blocks then s.compressBlock.startBlock else s.compressBlock.finish c) := by
  rw [run_block (s := s.startBlock) (c := c) ha hin rfl, State.endBlock_runSteps_startBlock,
    State.toNat_blk_add_one hblk]

/-- From the start of a block, the sequencer runs the blocks that are left and ends the command. -/
theorem run_blocks (n : Nat) {s : State} {c : Caller} (ha : s.activity = .compressing c)
    (hin : s.inbox.head? ≠ some .hardwareReset) (hblk : s.blk.toNat + (n + 1) = s.blocks) :
    s.startBlock.run (48 * (n + 1)) = .next ((State.compressBlocks (n + 1) s).finish c) := by
  induction n generalizing s with
  | zero =>
    rw [Nat.zero_add, Nat.mul_one, run_startBlock ha hin (by omega), if_neg (by omega)]
    rfl
  | succ n ih =>
    have hblock : s.startBlock.run 48 = .next s.compressBlock.startBlock := by
      rw [run_startBlock ha hin (by omega), if_pos (by omega)]
    have hleft : (s.blk + 1#28).toNat + (n + 1) = s.blocks := by
      rw [State.toNat_blk_add_one (by omega)]
      omega
    obtain ⟨r, t, e⟩ := s.compressBlock_frame
    rw [Nat.mul_succ, Nat.add_comm, State.run_add hblock, State.compressBlocks_succ]
    exact ih (by rw [e]; exact ha) (by rw [e]; exact hin) (by rw [e]; exact hleft)

/-- The end of a command sets the activity itself. -/
theorem State.finish_ignoresActivity (s : State) (a : Activity) (c : Caller) :
    State.finish { s with activity := a } c = s.finish c := by
  cases c <;> rfl

/-- With at least one block in PB, the sequencer's run is the compression, then the end of the command. -/
theorem run_beginCompression {s : State} (c : Caller) (hin : s.inbox.head? ≠ some .hardwareReset) (hpos : 0 < s.blocks) :
    (s.beginCompression c).run (48 * s.blocks) = .next (s.compressAll.finish c) := by
  obtain ⟨n, hn⟩ : ∃ n, s.blocks = n + 1 := ⟨s.blocks - 1, by omega⟩
  have hrun := run_blocks n (s := { s with activity := .compressing c, blk := 0#28 }) (c := c) rfl hin
    (by rw [← hn]; exact Nat.zero_add _)
  rw [hn, State.compressAll, hn, State.beginCompression, hrun,
    State.compressBlocks_ignoresActivity (n + 1) { s with blk := 0#28 } (.compressing c), State.finish_ignoresActivity]

/-- The blocks of the words in PB, if WCNT holds their number. -/
theorem State.blocks_load (s : State) {words : List Word} (h : words.length < 2 ^ 32) :
    (s.load words).blocks = words.length / 16 := by
  rw [State.blocks, State.load_wcnt, BitVec.toNat_ofNat, Nat.mod_eq_of_lt h]

/-- Settles O48: neither command meets a fault, and both run the blocks that WCNT counts. -/
theorem atomicCommandIsSequencerRun : Obligations.AtomicCommandIsSequencerRun := by
  refine ⟨fun s words hv hrun hin hne hmod hle => ?_, fun s msg hv hrun hin hfits => ?_⟩
  · obtain ⟨_, _, _, hcap⟩ := hv
    have hpos : 0 < words.length := List.length_pos_iff.2 hne
    have hblocks : (s.load words).blocks = words.length / 16 := s.blocks_load (by omega)
    refine ⟨_, by rw [exec_compress, wordsFault_of_fits hrun hle hmod]; rfl, ?_⟩
    rw [← hblocks]
    exact run_beginCompression .compress hin (by omega)
  · obtain ⟨hlen, hwords⟩ := s.messageFits_bounds msg.length hv hfits
    have hblocks : (s.receive msg).frame.blocks = blockCount msg.length := by
      rw [s.frame_receive msg (by omega), State.blocks_load _ (by rw [paddedWords_length]; omega), paddedWords_length]
      omega
    refine ⟨_, by rw [exec_digest, messageFault_of_fits hrun hfits]; rfl, ?_⟩
    rw [← hblocks]
    exact run_beginCompression .digest hin (by rw [hblocks]; exact Nat.succ_pos _)

end Sys2Proof.Machine
end

section
/-! PROOF. The command port: a packet is taken by a waiting engine only, and the end of a compression answers once, with status OK
(20_memory.md R54, 30_encoding.md R60, R67, 70_reset_and_hazards.md R263). -/

namespace Sys2Proof.Machine

/-- Whatever payload an OK response carries, its header byte is 0: the payload starts above it (R67 to R69). -/
theorem okResponse_header (p : Payload) : (okResponse p).field 0 8 = 0#8 := by
  cases p with
  | empty => rfl
  | state r => exact Packet.field_header_zero 136 _ (by decide)
  | digest g => exact Packet.field_header_zero 136 _ (by decide)
  | words ws =>
    have hpayload : 2 ^ 8 * ws.length + 2 ^ 40 * packFields ws = 2 ^ 8 * (ws.length + 2 ^ 32 * packFields ws) := by ring
    rw [okResponse, hpayload]
    exact Packet.field_header_zero _ _ (by omega)

/-- Settles O7: the step of a waiting engine that is presented a command. -/
theorem stepRunsTheDecodedCommand : Obligations.StepRunsTheDecodedCommand :=
  fun _ _ _ _ ha hin hd => step_of_command ha hin hd

/-- Inside a compression, with no hardware reset presented, a value of `t` that selects no step is the named fault (R74). -/
theorem step_of_noStepSelected {s : State} {c : Caller} (ha : s.activity = .compressing c)
    (hin : s.inbox.head? ≠ some .hardwareReset) (hd : decodeStep s.t = none) : step s = .fault .sequencerOutOfRange := by
  rcases fetchStep_cases s c with ⟨_, hreset, _⟩ | ⟨_, i, hi, _⟩ | ⟨_, _, hfetch⟩
  · simp [hreset] at hin
  · cases hi.symm.trans hd
  · simp [step, State.fetch, ha, hfetch]

/-- Settles O51: a step that answers a next state is the sequencer's. It goes on or, at the end of the last block, ends the
command with an OK response. -/
theorem nothingIsAcceptedDuringACompression : Obligations.NothingIsAcceptedDuringACompression := by
  intro s t c ha hin h
  cases hd : decodeStep s.t with
  | none => cases (step_of_noStepSelected ha hin hd).symm.trans h
  | some i =>
    obtain ⟨u, hu, ⟨hhalted, hparams, hinbox⟩, hend⟩ := stepSequencer_cases s c i hd
    have hstep : step s = .next u := (step_of_sequenced s c i ha hin hd).trans hu
    cases hstep.symm.trans h
    refine ⟨hinbox, hparams, hhalted, ?_⟩
    rcases hend with ⟨hact, hout⟩ | ⟨hidle, p, hout⟩
    · exact .inl ⟨hact.trans ha, hout⟩
    · exact .inr ⟨hidle, _, hout, okResponse_header p⟩

end Sys2Proof.Machine
end

section
/-! PROOF. The decoder and the encoder (30_encoding.md R61 to R74): the decoder's verdict by header and length, and the round trip
in both directions. -/

namespace Sys2Proof

open Sys2Proof.Machine

/-! ## The verdict by header and length (R61, R71 to R73) -/

/-- The reserved bits are 0 and the opcode is that of a command (R61, R66). -/
def Packet.HasCommandHeader (p : Packet) : Prop :=
  p.field 4 4 = 0#4 ∧ 1 ≤ (p.field 0 4).toNat ∧ (p.field 0 4).toNat ≤ 7

/-- A nonzero reserved field or a reserved opcode (R73). -/
def Packet.HasReservedHeader (p : Packet) : Prop :=
  p.field 4 4 ≠ 0#4 ∨ p.field 0 4 = 0#4 ∨ 8 ≤ (p.field 0 4).toNat

/-- The length R71 gives for the packet's own opcode and count. -/
def Packet.formatLength (p : Packet) : Nat :=
  lengthByFormat (p.field 0 4).toNat (p.field 8 64).toNat (p.field 8 32).toNat

section
variable {p : Packet}

/-- A header is a command's or reserved. -/
theorem Packet.commandHeader_or_reservedHeader (p : Packet) : p.HasCommandHeader ∨ p.HasReservedHeader := by
  by_cases hrsv : p.field 4 4 = 0#4
  · by_cases hop : 1 ≤ (p.field 0 4).toNat ∧ (p.field 0 4).toNat ≤ 7
    · exact .inl ⟨hrsv, hop⟩
    · refine .inr (.inr ?_)
      rw [BitVec.toNat_eq, BitVec.toNat_ofNat]
      omega
  · exact .inr (.inl hrsv)

theorem Packet.claimedLength_of_commandHeader (h : p.HasCommandHeader) : p.claimedLength = some p.formatLength := by
  obtain ⟨hrsv, hlow, hhigh⟩ := h
  rw [Packet.claimedLength, if_neg (not_not.2 hrsv), Packet.formatLength]
  generalize (p.field 0 4).toNat = op at hlow hhigh
  interval_cases op <;> rfl

theorem Packet.claimedLength_of_reservedHeader (h : p.HasReservedHeader) : p.claimedLength = none := by
  rw [Packet.claimedLength]
  split
  next => rfl
  next hrsv =>
    have hop : (p.field 0 4).toNat = 0 ∨ 8 ≤ (p.field 0 4).toNat :=
      (h.resolve_left hrsv).imp_left fun h0 => by rw [h0]; rfl
    generalize (p.field 0 4).toNat = op at hop
    match op, hop with
    | 0, _ => rfl
    | _ + 8, _ => rfl

theorem lengthByFormat_ge (op L Wn : Nat) : 8 ≤ lengthByFormat op L Wn := by
  unfold lengthByFormat
  split_ifs <;> omega

/-- Fewer than 8 bits hold no header. -/
theorem decode_of_short (h : p.len < 8) : decode p = .malformed := if_pos h

theorem decode_of_reservedHeader (hlen : 8 ≤ p.len) (h : p.HasReservedHeader) : decode p = .illegal := by
  rw [decode, if_neg (by omega), Packet.claimedLength_of_reservedHeader h]

theorem decode_of_commandHeader (hlen : 8 ≤ p.len) (h : p.HasCommandHeader) :
    decode p = if p.len = p.formatLength then p.command else .malformed := by
  rw [decode, if_neg (by omega), Packet.claimedLength_of_commandHeader h]

/-- The command of each opcode, with the length of its format (R66, R71). -/
theorem Packet.command_cases (h : p.HasCommandHeader) :
    ((p.field 0 4).toNat = 1 ∧ p.formatLength = 72 + 8 * (p.field 8 64).toNat ∧ p.command = .command (.pad p.message))
    ∨ ((p.field 0 4).toNat = 2 ∧ p.formatLength = 40 + 32 * (p.field 8 32).toNat
        ∧ p.command = .command (.compress p.words))
    ∨ ((p.field 0 4).toNat = 3 ∧ p.formatLength = 8 ∧ p.command = .command .format)
    ∨ ((p.field 0 4).toNat = 4 ∧ p.formatLength = 136
        ∧ p.command = .command (.setState (p.field 8 32) (p.field 40 32) (p.field 72 32) (p.field 104 32)))
    ∨ ((p.field 0 4).toNat = 5 ∧ p.formatLength = 8 ∧ p.command = .command .resetIv)
    ∨ ((p.field 0 4).toNat = 6 ∧ p.formatLength = 8 ∧ p.command = .command .getState)
    ∨ ((p.field 0 4).toNat = 7 ∧ p.formatLength = 72 + 8 * (p.field 8 64).toNat
        ∧ p.command = .command (.digest p.message)) := by
  obtain ⟨_, hlow, hhigh⟩ := h
  rw [Packet.formatLength, Packet.command]
  generalize (p.field 0 4).toNat = op at hlow hhigh
  interval_cases op <;> simp [lengthByFormat]

theorem Packet.exists_command (h : p.HasCommandHeader) : ∃ i, p.command = .command i := by
  obtain ⟨_, hlow, hhigh⟩ := h
  rw [Packet.command]
  generalize (p.field 0 4).toNat = op at hlow hhigh
  interval_cases op <;> exact ⟨_, rfl⟩

/-- What makes a bit vector the packet of the command `i`. -/
theorem decode_eq_command_iff {i : Instr} :
    decode p = .command i ↔ p.HasCommandHeader ∧ p.len = p.formatLength ∧ p.command = .command i := by
  constructor
  · intro h
    have hlen : 8 ≤ p.len := Nat.le_of_not_lt fun hshort => by cases (decode_of_short hshort).symm.trans h
    rcases p.commandHeader_or_reservedHeader with hh | hh
    · rw [decode_of_commandHeader hlen hh] at h
      split at h
      next hl => exact ⟨hh, hl, h⟩
      next => cases h
    · cases (decode_of_reservedHeader hlen hh).symm.trans h
  · rintro ⟨hh, hl, hc⟩
    have hlen : 8 ≤ p.len := hl ▸ lengthByFormat_ge _ _ _
    rw [decode_of_commandHeader hlen hh, if_pos hl, hc]

theorem decodeBits_packet_eq_some_iff {i : Instr} : decodeBits (.packet p) = some i ↔ decode p = .command i := by
  cases h : decode p <;> simp [decodeBits, h]

theorem decodeBits_of_malformed (h : decode p = .malformed) : decodeBits (.packet p) = none := by
  simp [decodeBits, h]

end

/-- Settles O3: the two kinds of header, and within a command's the two kinds of length. -/
theorem decoderVerdict : Obligations.DecoderVerdict := by
  intro p hlen
  refine ⟨decode_of_reservedHeader hlen, fun hrsv hlow hhigh => ?_⟩
  have hh : p.HasCommandHeader := ⟨hrsv, hlow, hhigh⟩
  rw [decode_of_commandHeader hlen hh]
  refine ⟨fun hl => ?_, fun hl => if_neg hl⟩
  rw [if_pos (show p.len = p.formatLength from hl)]
  exact Packet.exists_command hh

/-- Settles O4: both kinds of bit vector are malformed to the decoder. -/
theorem wrongLengthIsRefused : Obligations.WrongLengthIsRefused := by
  refine ⟨fun s p rest ha hin hlen hrsv hlow hhigh hl => ?_, fun s p rest ha hin hshort => ?_⟩
  · have hd : decode p = .malformed := by
      rw [decode_of_commandHeader hlen ⟨hrsv, hlow, hhigh⟩]
      exact if_neg hl
    exact ⟨step_of_malformed ha (.inl hin) hd, decodeBits_of_malformed hd⟩
  · have hd := decode_of_short hshort
    exact ⟨step_of_malformed ha (.inl hin) hd, decodeBits_of_malformed hd⟩

/-! ## Fields above a fixed part (R63 to R65) -/

/-- The value of a packet of equal fields laid above `lo` low bits. -/
theorem Packet.ofNat_fields_toNat {w : Nat} {n lo : Nat} (xs : List (BitVec w)) {c : Nat} (hc : c < 2 ^ lo)
    (hn : n = lo + w * xs.length) :
    (Packet.ofNat n (c + 2 ^ lo * packFields xs)).bits.toNat = c + 2 ^ lo * packFields xs := by
  apply Packet.ofNat_toNat
  rw [hn, Nat.pow_add]
  calc c + 2 ^ lo * packFields xs < 2 ^ lo * (packFields xs + 1) := by rw [Nat.mul_succ]; omega
    _ ≤ 2 ^ lo * 2 ^ (w * xs.length) := Nat.mul_le_mul_left _ (packFields_lt xs)

/-- The fields are what stands above the `lo` low bits. -/
theorem unpackFields_ofNat_fields {w : Nat} {n lo : Nat} (xs : List (BitVec w)) {c : Nat} (hc : c < 2 ^ lo)
    (hn : n = lo + w * xs.length) :
    unpackFields w xs.length ((Packet.ofNat n (c + 2 ^ lo * packFields xs)).bits.toNat >>> lo) = xs := by
  rw [Packet.ofNat_fields_toNat xs hc hn, Nat.shiftRight_eq_div_pow, Nat.add_mul_div_left _ _ (Nat.two_pow_pos lo),
    Nat.div_eq_of_lt hc, Nat.zero_add, unpackFields_packFields]

/-- A packet is its length and its value. -/
theorem Packet.ofNat_len_toNat (p : Packet) : Packet.ofNat p.len p.bits.toNat = p :=
  Packet.eq_of_toNat rfl (Packet.ofNat_toNat _ _ p.bits.isLt)

/-- A packet is built again from its `lo` low bits and the fields above them. -/
theorem Packet.ofNat_unpackFields (p : Packet) {lo w n c : Nat} (hlen : p.len = lo + w * n)
    (hc : p.bits.toNat % 2 ^ lo = c) :
    Packet.ofNat (lo + w * n) (c + 2 ^ lo * packFields (unpackFields w n (p.bits.toNat >>> lo))) = p := by
  have hlt : p.bits.toNat / 2 ^ lo < 2 ^ (w * n) := by
    apply Nat.div_lt_of_lt_mul
    rw [← Nat.pow_add, ← hlen]
    exact p.bits.isLt
  rw [Nat.shiftRight_eq_div_pow, packFields_unpackFields n _ hlt, ← hc, Nat.mod_add_div, ← hlen, p.ofNat_len_toNat]

/-! ## Encoding, then decoding -/

/-- A packet whose header byte is the opcode of a command and whose length is that of the format. -/
theorem decode_of_header {p : Packet} {op : Nat} (hop : 1 ≤ op ∧ op ≤ 7) (hh : p.bits.toNat % 256 = op)
    (hl : p.len = lengthByFormat op (p.field 8 64).toNat (p.field 8 32).toNat) :
    decode p = p.command ∧ (p.field 0 4).toNat = op := by
  have hop4 : (p.field 0 4).toNat = op := by rw [Packet.field_toNat]; omega
  have hrsv : p.field 4 4 = 0#4 := by
    apply BitVec.eq_of_toNat_eq
    rw [Packet.field_toNat, BitVec.toNat_ofNat]
    omega
  have hlen : 8 ≤ p.len := hl ▸ lengthByFormat_ge _ _ _
  refine ⟨?_, hop4⟩
  rw [decode_of_commandHeader hlen ⟨hrsv, hop4.symm ▸ hop⟩, Packet.formatLength, hop4, if_pos hl]

section
variable {op : Nat} (hop : op < 2 ^ 8) {msg : List Byte} (hmsg : msg.length < 2 ^ 64)
  {words : List Word} (hwords : words.length < 2 ^ 32)
include hop

include hmsg in
/-- The count field of format M (R64). -/
theorem encodeMessage_count : ((encodeMessage op msg).field 8 64).toNat = msg.length := by
  rw [encodeMessage, Packet.field_below_fields _ 72 msg _ (by omega) rfl 8 64 (by omega)]
  omega

include hmsg in
theorem encodeMessage_message : (encodeMessage op msg).message = msg := by
  rw [Packet.message, encodeMessage_count hop hmsg]
  exact unpackFields_ofNat_fields msg (by omega) rfl

include hwords in
/-- The count field of format W (R65). -/
theorem encodeWords_count : ((encodeWords op words).field 8 32).toNat = words.length := by
  rw [encodeWords, Packet.field_below_fields _ 40 words _ (by omega) rfl 8 32 (by omega)]
  omega

include hwords in
theorem encodeWords_words : (encodeWords op words).words = words := by
  rw [Packet.words, encodeWords_count hop hwords]
  exact unpackFields_ofNat_fields words (by omega) rfl

/-- Field `j` of format S (R63). -/
theorem encodeState_field (a b c d : Word) (j : Nat) (hj : j < [a, b, c, d].length) :
    (encodeState op a b c d).field (8 + 32 * j) 32 = [a, b, c, d][j] :=
  Packet.field_of_fields 136 8 [a, b, c, d] op hop j hj rfl

end

theorem decode_encode_pad {msg : List Byte} (h : msg.length < 2 ^ 64) :
    decode (encodeMessage 1 msg) = .command (.pad msg) := by
  obtain ⟨hd, hop⟩ := decode_of_header (op := 1) (by decide) (Laws.TableBits.pad msg)
    (by rw [encodeMessage_count (by decide) h]; rfl)
  simp only [hd, Packet.command, hop, encodeMessage_message (op := 1) (by decide) h]

theorem decode_encode_digest {msg : List Byte} (h : msg.length < 2 ^ 64) :
    decode (encodeMessage 7 msg) = .command (.digest msg) := by
  obtain ⟨hd, hop⟩ := decode_of_header (op := 7) (by decide) (Laws.TableBits.digest msg)
    (by rw [encodeMessage_count (by decide) h]; rfl)
  simp only [hd, Packet.command, hop, encodeMessage_message (op := 7) (by decide) h]

theorem decode_encode_compress {words : List Word} (h : words.length < 2 ^ 32) :
    decode (encodeWords 2 words) = .command (.compress words) := by
  obtain ⟨hd, hop⟩ := decode_of_header (op := 2) (by decide) (Laws.TableBits.compress words)
    (by rw [encodeWords_count (by decide) h]; rfl)
  simp only [hd, Packet.command, hop, encodeWords_words (op := 2) (by decide) h]

theorem decode_encode_setState (a b c d : Word) : decode (encodeState 4 a b c d) = .command (.setState a b c d) := by
  obtain ⟨hdecode, hop⟩ := decode_of_header (op := 4) (by decide) (Laws.TableBits.setState a b c d) rfl
  have hfield := encodeState_field (op := 4) (by decide) a b c d
  have ha : (encodeState 4 a b c d).field 8 32 = a := hfield 0 (by simp)
  have hb : (encodeState 4 a b c d).field 40 32 = b := hfield 1 (by simp)
  have hc : (encodeState 4 a b c d).field 72 32 = c := hfield 2 (by simp)
  have hd : (encodeState 4 a b c d).field 104 32 = d := hfield 3 (by simp)
  simp only [hdecode, Packet.command, hop, ha, hb, hc, hd]

/-- Settles O1: the formats with operands by their own round trips; the headers alone and the sequencer values are fixed bits. -/
theorem encodeThenDecode : Obligations.EncodeThenDecode := by
  intro i hwf
  cases i
  case pad msg => exact decodeBits_packet_eq_some_iff.2 (decode_encode_pad (of_decide_eq_true hwf))
  case compress words => exact decodeBits_packet_eq_some_iff.2 (decode_encode_compress (of_decide_eq_true hwf))
  case setState a b c d => exact decodeBits_packet_eq_some_iff.2 (decode_encode_setState a b c d)
  case digest msg => exact decodeBits_packet_eq_some_iff.2 (decode_encode_digest (of_decide_eq_true hwf))
  all_goals rfl

/-! ## Decoding, then encoding -/

section
variable {p : Packet} {op : Nat} (hrsv : p.field 4 4 = 0#4) (hop : (p.field 0 4).toNat = op)
include hrsv hop

theorem encodeHeader_eq (hlen : p.len = 8) : encodeHeader op = p := by
  have hheader := p.header_toNat op hrsv hop
  have hlt : p.bits.toNat < 2 ^ 8 := p.bits.isLt.trans_eq (by rw [hlen])
  rw [encodeHeader, show op = p.bits.toNat by omega, ← hlen, p.ofNat_len_toNat]

theorem encodeMessage_eq (hlen : p.len = 72 + 8 * (p.field 8 64).toNat) : encodeMessage op p.message = p := by
  have hheader := p.header_toNat op hrsv hop
  have hlow : p.bits.toNat % 2 ^ 72 = op + 2 ^ 8 * (p.field 8 64).toNat := by rw [Packet.field_toNat]; omega
  rw [encodeMessage, Packet.message, unpackFields_length, p.ofNat_unpackFields hlen hlow]

theorem encodeWords_eq (hlen : p.len = 40 + 32 * (p.field 8 32).toNat) : encodeWords op p.words = p := by
  have hheader := p.header_toNat op hrsv hop
  have hlow : p.bits.toNat % 2 ^ 40 = op + 2 ^ 8 * (p.field 8 32).toNat := by rw [Packet.field_toNat]; omega
  rw [encodeWords, Packet.words, unpackFields_length, p.ofNat_unpackFields hlen hlow]

end

theorem Packet.field_eq_ofNat (p : Packet) (lo n : Nat) : p.field lo n = BitVec.ofNat n (p.bits.toNat / 2 ^ lo) := by
  apply BitVec.eq_of_toNat_eq
  rw [Packet.field_toNat, BitVec.toNat_ofNat]

/-- The four operands of format S as the fields above the header (R63). -/
theorem Packet.unpackFields_state (p : Packet) :
    unpackFields 32 4 (p.bits.toNat >>> 8) = [p.field 8 32, p.field 40 32, p.field 72 32, p.field 104 32] := by
  simp [unpackFields, Packet.field_eq_ofNat, Nat.shiftRight_eq_div_pow, Nat.div_div_eq_div_mul]

theorem encodeState_eq {p : Packet} {op : Nat} (hrsv : p.field 4 4 = 0#4) (hop : (p.field 0 4).toNat = op)
    (hlen : p.len = 136) :
    encodeState op (p.field 8 32) (p.field 40 32) (p.field 72 32) (p.field 104 32) = p := by
  rw [encodeState, ← p.unpackFields_state]
  exact p.ofNat_unpackFields (lo := 8) (w := 32) (n := 4) hlen (p.header_toNat op hrsv hop)

/-- A packet that decodes to a command is the encoding of that command. -/
theorem encode_of_decode {p : Packet} {i : Instr} (h : decode p = .command i) : WellFormed i ∧ encode i = .packet p := by
  obtain ⟨hh, hlen, hc⟩ := decode_eq_command_iff.1 h
  have hrsv : p.field 4 4 = 0#4 := hh.1
  have hmessage : p.message.length < 2 ^ 64 := by rw [Packet.message, unpackFields_length]; exact BitVec.isLt _
  have hwords : p.words.length < 2 ^ 32 := by rw [Packet.words, unpackFields_length]; exact BitVec.isLt _
  rcases p.command_cases hh with ⟨hop, hl, e⟩ | ⟨hop, hl, e⟩ | ⟨hop, hl, e⟩ | ⟨hop, hl, e⟩ | ⟨hop, hl, e⟩ | ⟨hop, hl, e⟩
    | ⟨hop, hl, e⟩ <;> cases e.symm.trans hc <;> rw [hl] at hlen
  · exact ⟨decide_eq_true hmessage, congrArg InstrBits.packet (encodeMessage_eq hrsv hop hlen)⟩ -- PAD
  · exact ⟨decide_eq_true hwords, congrArg InstrBits.packet (encodeWords_eq hrsv hop hlen)⟩ -- COMPRESS
  · exact ⟨rfl, congrArg InstrBits.packet (encodeHeader_eq hrsv hop hlen)⟩ -- FORMAT
  · exact ⟨rfl, congrArg InstrBits.packet (encodeState_eq hrsv hop hlen)⟩ -- SET_STATE
  · exact ⟨rfl, congrArg InstrBits.packet (encodeHeader_eq hrsv hop hlen)⟩ -- RESET_IV
  · exact ⟨rfl, congrArg InstrBits.packet (encodeHeader_eq hrsv hop hlen)⟩ -- GET_STATE
  · exact ⟨decide_eq_true hmessage, congrArg InstrBits.packet (encodeMessage_eq hrsv hop hlen)⟩ -- DIGEST

/-- A sequencer value that selects a step is the encoding of that step, over the 64 values. -/
theorem encode_of_decodeStep {t : BitVec 6} {i : Instr} (h : decodeStep t = some i) :
    WellFormed i ∧ encode i = .sequencer t := by
  have htable : ∀ t : BitVec 6, ∀ i ∈ decodeStep t, WellFormed i ∧ encode i = .sequencer t := by decide
  exact htable t i h

/-- Settles O2: packets by the format of their opcode, sequencer values by the table of steps. -/
theorem decodeThenEncode : Obligations.DecodeThenEncode := by
  intro b i h
  cases b with
  | packet p => exact encode_of_decode (decodeBits_packet_eq_some_iff.1 h)
  | sequencer t => exact encode_of_decodeStep h

/-! ## Packets written out -/

/-- Settles O5: each is decoded by evaluation. -/
theorem writtenOutPacketsDecode : Obligations.WrittenOutPacketsDecode := by
  unfold Obligations.WrittenOutPacketsDecode
  decide +kernel

end Sys2Proof
end

section
/-! PROOF. The responses bit by bit (30_encoding.md R67 to R69), and the pseudo-instructions, which are runs of commands that end
with the responses of those commands (R76). -/

namespace Sys2Proof.Machine

/-! ## The bits of a response (R67 to R69) -/

/-- Field `j` of an OK response whose payload is equal fields right above the header. -/
theorem field_payload {w n : Nat} (xs : List (BitVec w)) (hn : n = 8 + w * xs.length) (j : Nat) (hj : j < xs.length) :
    (Packet.ofNat n (2 ^ 8 * packFields xs)).field (8 + w * j) w = xs[j] := by
  have h := Packet.field_of_fields n 8 xs 0 (by decide) j hj hn
  rwa [Nat.zero_add] at h

theorem okResponse_state_fields (r : Regs) :
    (okResponse (.state r)).field 8 32 = r.a ∧ (okResponse (.state r)).field 40 32 = r.b
      ∧ (okResponse (.state r)).field 72 32 = r.c ∧ (okResponse (.state r)).field 104 32 = r.d := by
  have hfield := field_payload (n := 136) [r.a, r.b, r.c, r.d] rfl
  exact ⟨hfield 0 (by simp), hfield 1 (by simp), hfield 2 (by simp), hfield 3 (by simp)⟩

theorem okResponse_digest_field {g : List Byte} (hg : g.length = 16) {i : Nat} (hi : i < 16) :
    (okResponse (.digest g)).field (8 + 8 * i) 8 = g.getD i 0#8 := by
  rw [List.getD_eq_getElem _ _ (by omega)]
  exact field_payload g (by omega) i (by omega)

section
variable {ws : List Word} (h : ws.length < 2 ^ 32)
include h

/-- The count of the words above it (R69). -/
theorem okResponse_words_count : ((okResponse (.words ws)).field 8 32).toNat = ws.length := by
  rw [okResponse, Packet.field_below_fields _ 40 ws _ (by omega) rfl 8 32 (by omega)]
  omega

theorem okResponse_words_field {j : Nat} (hj : j < ws.length) :
    (okResponse (.words ws)).field (40 + 32 * j) 32 = ws.getD j 0#32 := by
  rw [List.getD_eq_getElem _ _ hj]
  exact Packet.field_of_fields _ 40 ws (2 ^ 8 * ws.length) (by omega) j hj rfl

end

/-- Settles O6: the payloads field by field; a response without payload is a fixed byte. -/
theorem responseLayout : Obligations.ResponseLayout :=
  ⟨rfl, fun r => ⟨rfl, okResponse_header _, okResponse_state_fields r⟩,
   fun _ hg => ⟨rfl, okResponse_header _, fun _ hi => okResponse_digest_field hg hi⟩,
   fun _ h => ⟨rfl, okResponse_header _, okResponse_words_count h, fun _ hj => okResponse_words_field h hj⟩,
   rfl, rfl, rfl, rfl⟩

/-! ## Every command is answered once (R67) -/

/-- What R67 says of the header of a response, with the statuses of R68. -/
def IsResponse (rsp : Packet) : Prop :=
  8 ≤ rsp.len ∧ rsp.field 4 4 = 0#4 ∧ (rsp.field 0 4).toNat ≤ 4

/-- A fault's response is a header with the status of the fault. -/
theorem faultResponse_isResponse (f : FaultCode) : IsResponse (faultResponse f) := by
  cases f <;> exact ⟨le_refl 8, rfl, by decide⟩

theorem okResponse_len_ge (p : Payload) : 8 ≤ (okResponse p).len := by
  cases p with
  | empty => exact le_refl 8
  | state r => exact show 8 ≤ 136 by decide
  | digest g => exact show 8 ≤ 136 by decide
  | words ws => rw [okResponse, Packet.ofNat_len]; omega

/-- An OK response has a zero header, so both halves of it are zero. -/
theorem okResponse_isResponse (p : Payload) : IsResponse (okResponse p) := by
  have hheader := congrArg BitVec.toNat (okResponse_header p)
  rw [Packet.field_toNat, BitVec.toNat_ofNat] at hheader
  refine ⟨okResponse_len_ge p, ?_, ?_⟩
  · apply BitVec.eq_of_toNat_eq
    rw [Packet.field_toNat, BitVec.toNat_ofNat]
    omega
  · rw [Packet.field_toNat]
    omega

/-- A fault answers its status, and a command that succeeds an OK response. -/
theorem exec_command_answer {i : Instr} (s : State) (hc : i.isCommand = true) :
    ∃ t rsp, exec i s = .next t ∧ t.outbox = s.outbox ++ [rsp] ∧ IsResponse rsp
      ∧ t.inbox = s.inbox ∧ t.params = s.params := by
  obtain ⟨t, ht, hcases⟩ := exec_command_cases i s hc
  rcases hcases with ⟨_, rfl⟩ | ⟨_, rfl⟩ | ⟨_, _, rfl⟩ | ⟨_, _, hparams, hinbox, p, hout⟩
  · exact ⟨_, _, ht, rfl, faultResponse_isResponse .halted, rfl, rfl⟩
  · exact ⟨_, _, ht, rfl, faultResponse_isResponse .capacity, rfl, rfl⟩
  · exact ⟨_, _, ht, rfl, faultResponse_isResponse .align, rfl, rfl⟩
  · exact ⟨t, _, ht, hout, okResponse_isResponse p, hinbox, hparams⟩

/-- Settles O44: the answer of a command, its header taken apart. -/
theorem everyCommandIsAnsweredOnce : Obligations.EveryCommandIsAnsweredOnce := by
  intro i s hc
  obtain ⟨t, rsp, ht, hout, ⟨hlen, hrsv, hstatus⟩, hinbox, hparams⟩ := exec_command_answer s hc
  exact ⟨t, rsp, ht, hout, hlen, hrsv, hstatus, hinbox, hparams⟩

/-! ## Digests as registers (R192, R195) -/

/-- The digest bytes of a word assembled from bytes are those bytes (R45, R192). -/
@[simp] theorem wordBytes_le32 (b0 b1 b2 b3 : Byte) : wordBytes (le32 b0 b1 b2 b3) = [b0, b1, b2, b3] := by
  obtain ⟨h0, h1, h2, h3⟩ := byteOf_be32 b3 b2 b1 b0
  rw [wordBytes, show le32 b0 b1 b2 b3 = be32 b3 b2 b1 b0 from rfl, h0, h1, h2, h3]

/-- The registers of a digest format to it (R195). -/
theorem formatDigest_registersOfDigest {g : List Byte} (h : g.length = 16) : formatDigest (registersOfDigest g) = g := by
  simp only [formatDigest, registersOfDigest, wordBytes_le32]
  apply List.ext_getElem (by simp [h])
  intro i hi _
  have hi16 : i < 16 := hi
  interval_cases i <;> simp [h]

/-! ## Commands that meet no fault -/

section
variable {s : State} (hrun : s.halted = false)
include hrun

theorem exec_setState_of_running (a b c d : Word) :
    exec (.setState a b c d) s = .next ((s.setRegs { a := a, b := b, c := c, d := d }).respond .empty) := by
  rw [exec_setState, accessFault_of_running hrun]; rfl

theorem exec_resetIv_of_running : exec .resetIv s = .next ((s.setRegs Config.iv).respond .empty) := by
  rw [exec_resetIv, accessFault_of_running hrun]; rfl

theorem exec_format_of_running : exec .format s = .next (s.respond (.digest (formatDigest s.regs))) := by
  rw [exec_format, accessFault_of_running hrun]; rfl

/-- COMPRESS of whole blocks that fit chains the registers over the words and answers OK (R112). -/
theorem exec_compress_of_fits (hv : s.params.valid) {words : List Word} (hle : words.length ≤ s.params.pbCap)
    (hmod : words.length % 16 = 0) :
    ∃ t, exec (.compress words) s = .next t ∧ t.regs = chain s.regs words
      ∧ t.outbox = s.outbox ++ [okResponse .empty] := by
  obtain ⟨_, _, _, hcap⟩ := hv
  refine ⟨_, by rw [exec_compress, wordsFault_of_fits hrun hle hmod]; rfl, ?_, ?_⟩
  · exact s.compressAll_load_regs words (by omega)
  · simp

/-- DIGEST of a message that fits answers the digest from the current registers (R216, R217). -/
theorem exec_digest_of_fits (hv : s.params.valid) {msg : List Byte} (hfits : s.messageFits msg.length) :
    ∃ t, exec (.digest msg) s = .next t ∧ t.outbox = s.outbox ++ [okResponse (.digest (digestFrom s.regs msg))] := by
  obtain ⟨hlen, hwords⟩ := s.messageFits_bounds msg.length hv hfits
  have hregs : (s.receive msg).frame.compressAll.regs = chain s.regs (paddedWords msg) := by
    rw [s.frame_receive msg (by omega)]
    exact (s.receive msg).compressAll_load_regs _ (by rw [paddedWords_length]; exact hwords)
  refine ⟨_, by rw [exec_digest, messageFault_of_fits hrun hfits]; rfl, ?_⟩
  simp [hregs, digestFrom]

end

/-! ## The pseudo-instructions (R76) -/

theorem execAll_cons_of_next {i : Instr} {is : List Instr} {s t : State} (h : exec i s = .next t) :
    execAll (i :: is) s = execAll is t := by
  simp only [execAll, h]

theorem execAll_singleton_of_next {i : Instr} {s t : State} (h : exec i s = .next t) : execAll [i] s = .next t :=
  execAll_cons_of_next h

/-- MD4 starts from the IV, whatever the registers held (R76, R266). -/
theorem execAll_expandMd4 {s : State} {msg : List Byte} (hv : s.params.valid) (hrun : s.halted = false)
    (hfits : s.messageFits msg.length) :
    ∃ t, execAll (expandMd4 msg) s = .next t
      ∧ t.outbox = s.outbox ++ [okResponse .empty, okResponse (.digest (md4 msg))] := by
  obtain ⟨t, ht, hout⟩ := exec_digest_of_fits (s := (s.setRegs Config.iv).respond .empty) hrun hv hfits
  refine ⟨t, ?_, by simp [hout, md4]⟩
  rw [expandMd4, execAll_cons_of_next (exec_resetIv_of_running hrun), execAll_singleton_of_next ht]

/-- LOAD_DIGEST sets the registers that FORMAT turns into the digest (R76, R195). -/
theorem execAll_expandLoadDigest {s : State} {g : List Byte} (hrun : s.halted = false) (hg : g.length = 16) :
    ∃ is t, expandLoadDigest g = some is ∧ execAll (is ++ [.format]) s = .next t
      ∧ t.outbox = s.outbox ++ [okResponse .empty, okResponse (.digest g)] := by
  have hset := exec_setState_of_running hrun
    (registersOfDigest g).a (registersOfDigest g).b (registersOfDigest g).c (registersOfDigest g).d
  have hformat := exec_format_of_running (s := (s.setRegs (registersOfDigest g)).respond .empty) hrun
  refine ⟨_, _, if_pos hg, (execAll_cons_of_next hset).trans (execAll_singleton_of_next hformat), ?_⟩
  simp [formatDigest_registersOfDigest hg]

/-- COMPRESS_BYTES of whole blocks compresses the little-endian words of the bytes (R76). -/
theorem execAll_expandCompressBytes {s : State} {bytes : List Byte} (hv : s.params.valid) (hrun : s.halted = false)
    (hmod : bytes.length % 64 = 0) (hle : bytes.length / 4 ≤ s.params.pbCap) :
    ∃ is t, expandCompressBytes bytes = some is ∧ execAll is s = .next t
      ∧ t.regs = chain s.regs (wordsOfBytes bytes) ∧ t.outbox = s.outbox ++ [okResponse .empty] := by
  have hlen := wordsOfBytes_length bytes
  obtain ⟨t, ht, hregs, hout⟩ := exec_compress_of_fits hrun hv (words := wordsOfBytes bytes) (by omega) (by omega)
  exact ⟨_, t, if_pos (by omega), execAll_singleton_of_next ht, hregs, hout⟩

/-- Settles O39: the runs of the three expansions. -/
theorem pseudoInstructionsDoWhatTheySay : Obligations.PseudoInstructionsDoWhatTheySay :=
  ⟨fun _ _ hv hrun hfits => execAll_expandMd4 hv hrun hfits,
   fun _ _ hrun hg => execAll_expandLoadDigest hrun hg,
   fun _ _ hv hrun hmod hle => execAll_expandCompressBytes hv hrun hmod hle⟩

end Sys2Proof.Machine
end

section
/-! PROOF. Framing (40_framing.md): how many bytes the padding has, the form of the padded message, what PB and WCNT hold after
`frame()`, and the command PAD. -/

namespace Sys2Proof.Machine

/-! ## The padding quantities (R91, R101) -/

/-- The one formula for `k`, a subtraction of integers modulo 64. -/
theorem zeroCount_eq_emod (L : Nat) : (zeroCount L : Int) = (55 - (L : Int)) % 64 := by
  unfold zeroCount; split <;> omega

/-- `k` as two subtractions of natural numbers. -/
theorem zeroCount_of_le {L : Nat} (h : L % 64 ≤ 55) : zeroCount L = 55 - L % 64 := if_pos h

theorem zeroCount_of_lt {L : Nat} (h : 55 < L % 64) : zeroCount L = 119 - L % 64 := if_neg (Nat.not_le.2 h)

/-- The padded bytes leave room for the 8 length bytes in their last block (R93). -/
theorem paddedLength_mod (L : Nat) : paddedLength L % 64 = 56 := by
  have := paddedLength_eq L
  omega

/-- No other number of zero bytes below 64 leaves that room. -/
theorem eq_zeroCount_of_mod {L k : Nat} (hk : k < 64) (hmod : (L + 1 + k) % 64 = 56) : k = zeroCount L := by
  have hzero := zeroCount_lt L
  have hpad : (L + 1 + zeroCount L) % 64 = 56 := paddedLength_mod L
  omega

theorem blockCount_pos (L : Nat) : 1 ≤ blockCount L := Nat.le_add_left 1 _

/-- One more byte needs one more block exactly where the last block has no byte left before the length field. -/
theorem blockCount_succ (L : Nat) : blockCount (L + 1) = blockCount L + if L % 64 = 55 then 1 else 0 := by
  unfold blockCount; split <;> omega

/-- Settles O21: both formulas for `k`, and what `Lp + 8 = 64 * N` says of it. -/
theorem paddingCounts : Obligations.PaddingCounts := fun L =>
  ⟨zeroCount_eq_emod L, zeroCount_of_le, zeroCount_of_lt, zeroCount_lt L, paddedLength_mod L,
   fun _ hk hmod => eq_zeroCount_of_mod hk hmod, rfl, blockCount_pos L, paddedLength_eq L⟩

/-- Settles O22: the three lengths computed, and the step from one length to the next. -/
theorem lengthBoundary : Obligations.LengthBoundary :=
  ⟨⟨rfl, rfl⟩, ⟨rfl, rfl⟩, ⟨rfl, rfl⟩, blockCount_succ⟩

/-! ## The length field (R95, R99) -/

/-- The length field wraps for no message that R8 allows. -/
theorem bitLength_toNat {L : Nat} (h : L < 2 ^ 61) : (bitLength L).toNat = 8 * L := by
  rw [bitLength, BitVec.toNat_ofNat, Nat.mod_eq_of_lt (by omega)]

theorem lo32_toNat (n : BitVec 64) : (lo32 n).toNat = n.toNat % 2 ^ 32 := by
  rw [lo32, BitVec.extractLsb'_toNat, Nat.shiftRight_zero]

theorem hi32_toNat (n : BitVec 64) : (hi32 n).toNat = n.toNat / 2 ^ 32 := by
  have hn := n.isLt
  rw [hi32, BitVec.extractLsb'_toNat, Nat.shiftRight_eq_div_pow, Nat.mod_eq_of_lt (by omega)]

/-- Byte `i` of the length field holds the bits `8i` to `8i+7` of `8*L`, whatever `L` is. -/
theorem extractLsb'_bitLength {i : Nat} (hi : i < 8) (L : Nat) :
    (bitLength L).extractLsb' (8 * i) 8 = BitVec.ofNat 8 (8 * L / 2 ^ (8 * i)) := by
  apply BitVec.eq_of_getLsbD_eq
  intro b hb
  have hwidth : 8 * i + b < 64 := by omega
  simp only [bitLength, BitVec.getLsbD_extractLsb', BitVec.getLsbD_ofNat, Nat.testBit_div_two_pow, hb, hwidth, decide_true,
    Bool.true_and, Nat.add_comm b]

/-! ## The form of the padded message (R90, R99, R100) -/

section
variable (msg : List Byte)

theorem paddedMessage_take : (paddedMessage msg).take msg.length = msg := List.take_left

/-- The byte after the message (R93). -/
theorem paddedMessage_getD_end : (paddedMessage msg).getD msg.length 0#8 = 0x80#8 := by
  rw [paddedMessage_getD msg _ (by unfold paddedLength; omega), if_neg (lt_irrefl _), if_pos rfl]

/-- A byte within the padded message does not depend on the default that stands for what lies outside it. -/
theorem paddedMessage_getD_default {i : Nat} (h : i < 64 * blockCount msg.length) (b : Byte) :
    (paddedMessage msg).getD i b = (paddedMessage msg).getD i 0#8 := by
  rw [← paddedMessage_length] at h
  rw [List.getD_eq_getElem _ _ h, List.getD_eq_getElem _ _ h]

/-- The `k` bytes after `0x80` (R93). -/
theorem paddedMessage_getD_zeros {i : Nat} (hlt : msg.length < i) (hle : i ≤ msg.length + zeroCount msg.length) (b : Byte) :
    (paddedMessage msg).getD i b = 0x00#8 := by
  have hi : i < paddedLength msg.length := by unfold paddedLength; omega
  have hlen := paddedLength_eq msg.length
  rw [paddedMessage_getD_default msg (by omega), paddedMessage_getD msg i hi, if_neg (by omega), if_neg (by omega)]

/-- The last 8 bytes (R99). -/
theorem paddedMessage_getD_lengthBytes {i : Nat} (hi : i < 8) (b : Byte) :
    (paddedMessage msg).getD (64 * blockCount msg.length - 8 + i) b = BitVec.ofNat 8 (8 * msg.length / 2 ^ (8 * i)) := by
  have hlen := paddedLength_eq msg.length
  have hplace : 64 * blockCount msg.length - 8 = paddedLength msg.length := by omega
  rw [paddedMessage_getD_default msg (by omega), hplace, paddedMessage_getD_length msg i hi, extractLsb'_bitLength hi]

/-- Word `j` from bytes `4j` to `4j+3` (R99). -/
theorem paddedWords_getD {j : Nat} (hj : j < 16 * blockCount msg.length) :
    (paddedWords msg).getD j 0#32
      = le32 ((paddedMessage msg).getD (4 * j) 0#8) ((paddedMessage msg).getD (4 * j + 1) 0#8)
          ((paddedMessage msg).getD (4 * j + 2) 0#8) ((paddedMessage msg).getD (4 * j + 3) 0#8) :=
  wordsOfBytes_getD _ _ (by rw [paddedMessage_length]; omega)

theorem paddedWords_length_ge : 16 ≤ (paddedWords msg).length := by
  have := blockCount_pos msg.length
  rw [paddedWords_length]; omega

end

/-- Settles O24: the four parts of the padded message, and its words. -/
theorem paddedMessageForm : Obligations.PaddedMessageForm := fun msg =>
  ⟨paddedMessage_length msg, paddedMessage_take msg, paddedMessage_getD_end msg,
   fun _ hlt hle => paddedMessage_getD_zeros msg hlt hle _, fun _ hi => paddedMessage_getD_lengthBytes msg hi _,
   paddedWords_length msg, paddedWords_length_ge msg, fun _ hj => paddedWords_getD msg hj⟩

/-! ## What PB and WCNT hold after `frame()` (R94, R95, R96) -/

/-- LEN holds the length of a message that fits the field. -/
theorem State.receive_len_toNat (s : State) {msg : List Byte} (h : msg.length < 2 ^ 64) :
    (s.receive msg).len.toNat = msg.length := by
  rw [State.receive_len, BitVec.toNat_ofNat, Nat.mod_eq_of_lt h]

section
variable (s : State)

/-- The words of the padded bytes and the two length words are all of PB that framing fills (R96). -/
theorem State.framedWords_length_eq_add : s.framedWords.length = paddedLength s.len.toNat / 4 + 2 := by
  simp [State.framedWords]

theorem State.readPB_frame {j : Nat} (hj : j < paddedLength s.len.toNat / 4 + 2) :
    s.frame.readPB j = s.framedWords.getD j 0#32 :=
  s.readPB_load_getD s.framedWords j (by rw [s.framedWords_length_eq_add]; exact hj)

/-- The words of the padded bytes (R94). -/
theorem State.readPB_frame_bytes {j : Nat} (hj : j < paddedLength s.len.toNat / 4) : s.frame.readPB j = s.paddedWord j := by
  rw [s.readPB_frame (by omega), State.framedWords, List.getD_append _ _ _ _ (by simpa using hj)]
  simp [hj]

/-- The low length word (R95). -/
theorem State.readPB_frame_low : s.frame.readPB (paddedLength s.len.toNat / 4) = lo32 (bitLength s.len.toNat) := by
  rw [s.readPB_frame (by omega), State.framedWords, List.getD_append_right _ _ _ _ (by simp)]
  simp

/-- The high length word (R95). -/
theorem State.readPB_frame_high : s.frame.readPB (paddedLength s.len.toNat / 4 + 1) = hi32 (bitLength s.len.toNat) := by
  rw [s.readPB_frame (by omega), State.framedWords, List.getD_append_right _ _ _ _ (by simp)]
  simp

end

section
variable (s : State) {msg : List Byte}

/-- The length words after framing are the halves of `8*L` (R95). -/
theorem State.readPB_frame_receive_low (h : msg.length < 2 ^ 61) :
    ((s.receive msg).frame.readPB (paddedLength msg.length / 4)).toNat = 8 * msg.length % 2 ^ 32 := by
  have hword := (s.receive msg).readPB_frame_low
  rw [s.receive_len_toNat (by omega)] at hword
  rw [hword, lo32_toNat, bitLength_toNat h]

theorem State.readPB_frame_receive_high (h : msg.length < 2 ^ 61) :
    ((s.receive msg).frame.readPB (paddedLength msg.length / 4 + 1)).toNat = 8 * msg.length / 2 ^ 32 := by
  have hword := (s.receive msg).readPB_frame_high
  rw [s.receive_len_toNat (by omega)] at hword
  rw [hword, hi32_toNat, bitLength_toNat h]

/-- Framing counts the words it fills: a whole number of blocks (R96). -/
theorem State.wcnt_frame_receive (h : msg.length < 2 ^ 61) (hwords : 16 * blockCount msg.length < 2 ^ 32) :
    (s.receive msg).frame.wcnt.toNat = 16 * blockCount msg.length := by
  rw [State.frame_wcnt, State.framedWords_length, s.receive_len_toNat (by omega), BitVec.toNat_ofNat, Nat.mod_eq_of_lt hwords]

end

/-- Settles O23: PB word by word, and WCNT; the arithmetic of the places is `Lp + 8 = 64 * N`. -/
theorem framingFillsThePaddedBuffer : Obligations.FramingFillsThePaddedBuffer := by
  intro s msg hv hfits
  obtain ⟨hlen, hwords⟩ := s.messageFits_bounds msg.length hv hfits
  have hL := s.receive_len_toNat (msg := msg) (by omega)
  have hpad := paddedLength_eq msg.length
  have hwcnt := s.wcnt_frame_receive hlen hwords
  have hhigh := s.readPB_frame_receive_high hlen
  show paddedLength msg.length % 64 = 56 ∧ paddedLength msg.length / 4 % 16 = 14 ∧ _
  refine ⟨paddedLength_mod _, by omega, fun j hj => ?_, s.readPB_frame_receive_low hlen, hhigh, fun hshort => ?_,
    hwcnt.trans ?_, hwcnt, rfl, rfl⟩
  · rw [(s.receive msg).readPB_frame_bytes (by rw [hL]; exact hj), State.paddedWord, le32_toNat]
    simp only [s.paddedByte_receive msg (by omega)]
  · exact BitVec.eq_of_toNat_eq (hhigh.trans (Nat.div_eq_of_lt (by omega)))
  · show _ = paddedLength msg.length / 4 + 2
    omega

/-! ## PAD (R92) -/

/-- A halted engine answers HALTED to PAD and DIGEST before it looks at the message (R235, R238). -/
theorem messageFault_of_halted {s : State} (h : s.halted = true) (L : Nat) : messageFault s L = some .halted := by
  simp [messageFault, h]

/-- A message that does not fit meets CAPACITY (R231). -/
theorem messageFault_of_not_fits {s : State} {L : Nat} (h : s.halted = false) (hfits : ¬ s.messageFits L) :
    messageFault s L = some .capacity := by
  rcases messageFault_cases s L with ⟨hhalted, _⟩ | ⟨_, _, hfault⟩ | ⟨_, hfits', _⟩
  · simp [h] at hhalted
  · exact hfault
  · exact absurd hfits' hfits

/-- The payload of PAD is read back from the PB that framing has filled (R92). -/
theorem State.storedWords_frame_receive (s : State) {msg : List Byte} (hlen : msg.length < 2 ^ 64)
    (hwords : 16 * blockCount msg.length < 2 ^ 32) : (s.receive msg).frame.storedWords = paddedWords msg := by
  rw [s.frame_receive msg hlen, State.storedWords_load _ _ (by rw [paddedWords_length]; exact hwords)]

@[simp] theorem State.hostView_frame (s : State) : s.frame.hostView = s.hostView := rfl

/-- Settles O25: the first fault of R238 in its order, or the framed words. -/
theorem padCommand : Obligations.PadCommand := by
  intro s msg hv
  refine ⟨fun hhalted => ?_, fun hrun hfits => ?_, fun hrun hfits => ?_⟩
  · rw [exec_pad, messageFault_of_halted hhalted]; rfl
  · rw [exec_pad, messageFault_of_not_fits hrun hfits]; rfl
  · obtain ⟨hlen, hwords⟩ := s.messageFits_bounds msg.length hv hfits
    refine ⟨_, by rw [exec_pad, messageFault_of_fits hrun hfits]; rfl, ?_⟩
    rw [State.hostView_respond, State.hostView_release, State.hostView_frame, State.hostView_receive,
      s.storedWords_frame_receive (by omega) hwords]
    rfl

end Sys2Proof.Machine
end

section
/-! PROOF. Compression (41_compression.md): what each of the 48 steps writes, by its own rule and by the lists of the three
rounds, and the command COMPRESS, which chains the block function over the words. -/

namespace Sys2Proof.Machine

/-! ## The 48 steps by their rules (R130 to R177) -/

/-- What a step in the general form of R111 answers, its sum written out. -/
theorem State.next_roundStep (s : State) (ra rb rc rd : Reg) (f : Word → Word → Word → Word) (k : Nat) (K : Word) (sh : Nat)
    (n : BitVec 6) :
    (.next (s.roundStep ra rb rc rd f k K sh n) : Out) = .next { s with
      regs := writeReg s.regs ra (rotl32 (readReg s.regs ra + f (readReg s.regs rb) (readReg s.regs rc) (readReg s.regs rd)
        + s.readPB (16 * s.blk.toNat + k) + K) sh)
      t := n } := rfl

/-- In round 1 the sum has no constant: adding it is adding zero (R116, R125). -/
theorem State.next_roundStep_round1 (s : State) (ra rb rc rd : Reg) (f : Word → Word → Word → Word) (k sh : Nat)
    (n : BitVec 6) :
    (.next (s.roundStep ra rb rc rd f k round1Constant sh n) : Out) = .next { s with
      regs := writeReg s.regs ra (rotl32 (readReg s.regs ra + f (readReg s.regs rb) (readReg s.regs rc) (readReg s.regs rd)
        + s.readPB (16 * s.blk.toNat + k)) sh)
      t := n } := by
  rw [State.next_roundStep, round1Constant, BitVec.add_zero]

/-- Settles O12: all twelve are steps of round 1. -/
theorem steps00To11 : Obligations.Steps00To11 := by
  refine ⟨?_, ?_, ?_, ?_, ?_, ?_, ?_, ?_, ?_, ?_, ?_, ?_⟩ <;> exact fun s => s.next_roundStep_round1 ..

/-- Settles O13: the last four steps of round 1, and the first eight of round 2. -/
theorem steps12To23 : Obligations.Steps12To23 := by
  refine ⟨fun s => s.next_roundStep_round1 .., fun s => s.next_roundStep_round1 .., fun s => s.next_roundStep_round1 ..,
    fun s => s.next_roundStep_round1 .., ?_, ?_, ?_, ?_, ?_, ?_, ?_, ?_⟩ <;> exact fun s => s.next_roundStep ..

/-- Settles O14: steps of rounds 2 and 3, each with its constant. -/
theorem steps24To35 : Obligations.Steps24To35 := by
  refine ⟨?_, ?_, ?_, ?_, ?_, ?_, ?_, ?_, ?_, ?_, ?_, ?_⟩ <;> exact fun s => s.next_roundStep ..

/-- Settles O15: steps of round 3; the last one writes back the `t` it finds. -/
theorem steps36To47 : Obligations.Steps36To47 := by
  refine ⟨?_, ?_, ?_, ?_, ?_, ?_, ?_, ?_, ?_, ?_, ?_, ?_⟩ <;> exact fun s => s.next_roundStep ..

/-! ## The 48 steps by the lists of the rounds (R116 to R118) -/

/-- Step `n` as a whole: the registers by row `n`, `t` moved on below 47, and nothing else. -/
theorem stepSequence_getD_eq_applyRow {n : Nat} (hn : n < 48) (s : State) :
    stepSequence.getD n id s = { s with
      regs := applyRow (stepRow n) s.blockWord s.regs
      t := if n < 47 then BitVec.ofNat 6 (n + 1) else s.t } := by
  obtain ⟨r, hstep⟩ := stepSequence_getD n hn s
  obtain ⟨hregs, _⟩ := stepSequence_row n hn s
  rw [hstep] at hregs ⊢
  rw [← hregs]

/-- Settles O16: the sequencer value `n` selects the step at place `n` of the sequence, which is row `n`. -/
theorem stepsFollowTheRoundLists : Obligations.StepsFollowTheRoundLists := by
  intro n s hn
  obtain ⟨i, hi, he⟩ := exec_decodeStep n hn s
  exact ⟨i, hi, by rw [he, stepSequence_getD_eq_applyRow hn]⟩

/-! ## COMPRESS (R112, R113) -/

/-- A halted engine answers HALTED to COMPRESS before it looks at the words (R235, R238). -/
theorem wordsFault_of_halted {s : State} (h : s.halted = true) (n : Nat) : wordsFault s n = some .halted := by
  simp [wordsFault, h]

/-- Too many words meet CAPACITY, aligned or not (R231, R238). -/
theorem wordsFault_of_tooMany {s : State} {n : Nat} (h : s.halted = false) (hlt : s.params.pbCap < n) :
    wordsFault s n = some .capacity := by
  simp [wordsFault, wordsTooMany, h, hlt]

/-- Words that fit and are not whole blocks meet ALIGN (R233). -/
theorem wordsFault_of_misaligned {s : State} {n : Nat} (h : s.halted = false) (hle : n ≤ s.params.pbCap)
    (hmod : n % 16 ≠ 0) : wordsFault s n = some .align := by
  simp [wordsFault, wordsTooMany, misaligned, h, hle, hmod]

/-- COMPRESS without a fault: the words to PB, the compression, the end of the command (R112). -/
theorem exec_compress_of_noFault {s : State} {words : List Word} (hrun : s.halted = false)
    (hle : words.length ≤ s.params.pbCap) (hmod : words.length % 16 = 0) :
    exec (.compress words) s = .next (s.load words).compressAll.finishCompress := by
  rw [exec_compress, wordsFault_of_fits hrun hle hmod]
  rfl

/-- What the host sees of it: the registers chained over the words, and the response OK (R110, R112). -/
theorem State.hostView_compressed (s : State) {words : List Word} (hlen : words.length < 2 ^ 32) :
    (s.load words).compressAll.finishCompress.hostView = { s.hostView with
      regs := chain s.regs words, activity := .idle, outbox := s.outbox ++ [okResponse .empty] } := by
  rw [State.hostView_finishCompress, State.hostView_compressAll, State.hostView_load, s.compressAll_load_regs words hlen]
  rfl

/-- Settles O26: the first fault of R238 in its order, or the chained registers. -/
theorem compressCommand : Obligations.CompressCommand := by
  intro s words hv
  obtain ⟨_, _, _, hcap⟩ := hv
  refine ⟨fun hhalted => ?_, fun hrun hlt => ?_, fun hrun hle hmod => ?_, fun hrun hle hmod => ?_⟩
  · rw [exec_compress, wordsFault_of_halted hhalted]; rfl
  · rw [exec_compress, wordsFault_of_tooMany hrun hlt]; rfl
  · rw [exec_compress, wordsFault_of_misaligned hrun hle hmod]; rfl
  · exact ⟨_, exec_compress_of_noFault hrun hle hmod, s.hostView_compressed (by omega)⟩

/-- Settles O27: the chain over no words is empty, and padding has at least one block. -/
theorem compressOfNothing : Obligations.CompressOfNothing := by
  refine ⟨fun s hrun => ?_, fun msg hnil => ?_⟩
  · exact ⟨_, exec_compress_of_noFault hrun (Nat.zero_le _) rfl, s.hostView_compressed (words := []) (by decide)⟩
  · simpa [hnil] using paddedWords_length_ge (msg := msg)

/-! ## Two sequences one after the other (R120) -/

/-- A compression leaves an engine that takes the next one: the configuration and HALTED stay. -/
theorem exec_compress_after_compress {s : State} {ws vs : List Word} (hrun : s.halted = false)
    (hle : vs.length ≤ s.params.pbCap) (hmod : vs.length % 16 = 0) :
    exec (.compress vs) (s.load ws).compressAll.finishCompress
      = .next ((s.load ws).compressAll.finishCompress.load vs).compressAll.finishCompress :=
  exec_compress_of_noFault (by simpa using hrun) (by simpa using hle) hmod

/-- The registers of two compressions are chained over the words of both. -/
theorem State.regs_compressed_compressed (s : State) {ws vs : List Word} (hws : ws.length % 16 = 0) (hvs : vs.length % 16 = 0)
    (hlen : ws.length + vs.length < 2 ^ 32) :
    ((s.load ws).compressAll.finishCompress.load vs).compressAll.finishCompress.regs
      = (s.load (ws ++ vs)).compressAll.finishCompress.regs := by
  simp only [State.finishCompress_regs]
  rw [State.compressAll_load_regs _ vs (by omega), State.finishCompress_regs, s.compressAll_load_regs ws (by omega),
    s.compressAll_load_regs (ws ++ vs) (by rw [List.length_append]; exact hlen), chain_append _ _ _ hws hvs]

/-- Settles O28: none of the three commands meets a fault, and the chain splits at the block boundary. -/
theorem compressChains : Obligations.CompressChains := by
  intro s ws vs hv hrun hws hvs hle
  obtain ⟨_, _, _, hcap⟩ := hv
  have hle' : (ws ++ vs).length ≤ s.params.pbCap := by rw [List.length_append]; exact hle
  have hmod' : (ws ++ vs).length % 16 = 0 := by rw [List.length_append]; omega
  refine ⟨_, _, _, exec_compress_of_noFault hrun (by omega) hws, exec_compress_after_compress hrun (by omega) hvs,
    exec_compress_of_noFault hrun hle' hmod', s.regs_compressed_compressed hws hvs (by omega), ?_⟩
  simp [hrun]

end Sys2Proof.Machine
end

section
/-! PROOF. Digest formatting (42_digest_format.md): the digest and the registers give each other back, and what FORMAT answers. -/

namespace Sys2Proof.Machine

/-! ## The bytes of a register (R192, R194) -/

/-- A register is picked up from its own digest bytes. -/
@[simp] theorem le32_byteOf (v : Word) : le32 (byteOf v 0) (byteOf v 1) (byteOf v 2) (byteOf v 3) = v := be32_byteOf v

/-- Framing picks a register's digest bytes up as one word (R94, R99). -/
@[simp] theorem wordsOfBytes_wordBytes_append (v : Word) (bytes : List Byte) :
    wordsOfBytes (wordBytes v ++ bytes) = v :: wordsOfBytes bytes := by
  simp [wordBytes, wordsOfBytes]

@[simp] theorem formatDigest_length (r : Regs) : (formatDigest r).length = 16 := rfl

/-- The digest of registers gives them back (R194). -/
@[simp] theorem registersOfDigest_formatDigest (r : Regs) : registersOfDigest (formatDigest r) = r := by
  simp [registersOfDigest, formatDigest, wordBytes]

/-- Framing picks the four registers up from their digest, in order (R194). -/
theorem wordsOfBytes_formatDigest (r : Regs) : wordsOfBytes (formatDigest r) = [r.a, r.b, r.c, r.d] := by
  have hd : wordsOfBytes (wordBytes r.d) = [r.d] := wordsOfBytes_wordBytes_append r.d []
  simp [formatDigest, hd]

/-- Settles O30: each register and its four bytes give each other back, and R195's example is evaluated. -/
theorem formatIsABijection : Obligations.FormatIsABijection :=
  ⟨fun r => ⟨formatDigest_length r, registersOfDigest_formatDigest r⟩,
   fun _ hg => ⟨formatDigest_registersOfDigest hg, rfl⟩,
   wordsOfBytes_formatDigest,
   by decide⟩

/-! ## FORMAT (R191) -/

/-- The fault of FORMAT, SET_STATE, RESET_IV and GET_STATE in a halted engine (R235). -/
theorem accessFault_of_halted {s : State} (h : s.halted = true) : accessFault s = some .halted := by
  simp [accessFault, h]

/-- Settles O29: FORMAT's only fault is HALTED, and the digest is its bytes written out. -/
theorem formatCommand : Obligations.FormatCommand := by
  refine fun s => ⟨fun hhalted => ?_, fun hrun => ?_⟩
  · rw [exec_format, accessFault_of_halted hhalted]; rfl
  · exact exec_format_of_running hrun

end Sys2Proof.Machine
end

section
/-! PROOF. The state accessors SET_STATE, RESET_IV and GET_STATE (43_state_access.md): each answers HALTED, or has its effect on A
to D and answers OK. -/

namespace Sys2Proof.Machine

/-- A halted engine answers HALTED to each of the accessors, and the fault writes nothing (R230, R235). -/
theorem State.answerOr_accessFault_of_halted {s : State} (h : s.halted = true) (result : State) :
    s.answerOr (accessFault s) result = .next { s with outbox := s.outbox ++ [Packet.ofNat 8 4] } := by
  rw [accessFault_of_halted h]; rfl

theorem exec_getState_of_running {s : State} (hrun : s.halted = false) :
    exec .getState s = .next (s.respond (.state s.regs)) := by
  rw [exec_getState, accessFault_of_running hrun]; rfl

/-- A running engine takes SET_STATE and then holds the operands (R202). -/
theorem exec_setState_regs {s : State} (hrun : s.halted = false) (a b c d : Word) :
    ∃ t, exec (.setState a b c d) s = .next t ∧ t.regs = { a := a, b := b, c := c, d := d } :=
  ⟨_, exec_setState_of_running hrun a b c d, rfl⟩

/-- SET_STATE does not halt the engine, so it takes a second one. -/
theorem exec_setState_halted {s t : State} {a b c d : Word} (hrun : s.halted = false)
    (h : exec (.setState a b c d) s = .next t) : t.halted = false := by
  cases (exec_setState_of_running hrun a b c d).symm.trans h
  exact hrun

/-- SET_STATE of the fields of a GET_STATE response puts the registers it was made from into any running engine (R204). -/
theorem exec_setState_okResponse_state (r : Regs) {u : State} (hrun : u.halted = false) :
    ∃ v, exec (.setState ((okResponse (.state r)).field 8 32) ((okResponse (.state r)).field 40 32)
        ((okResponse (.state r)).field 72 32) ((okResponse (.state r)).field 104 32)) u = .next v ∧ v.regs = r := by
  obtain ⟨ha, hb, hc, hd⟩ := okResponse_state_fields r
  rw [ha, hb, hc, hd]
  exact exec_setState_regs hrun r.a r.b r.c r.d

/-- Settles O33: the response is the OK response of the registers, whose fields are those registers. -/
theorem getStateCommand : Obligations.GetStateCommand := by
  refine fun s => ⟨fun hhalted => ?_, fun hrun => ?_⟩
  · rw [exec_getState, State.answerOr_accessFault_of_halted hhalted]
  · obtain ⟨ha, hb, hc, hd⟩ := okResponse_state_fields s.regs
    exact ⟨okResponse (.state s.regs), exec_getState_of_running hrun, rfl, okResponse_header _, ha, hb, hc, hd,
      fun _ hu => exec_setState_okResponse_state s.regs hu⟩

/-- Settles O31: the fault or the result by HALTED; RESET_IV has the same result for the IV; the second SET_STATE meets no fault. -/
theorem setStateCommand : Obligations.SetStateCommand := by
  refine fun s a b c d => ⟨fun hhalted => ?_, fun hrun => ?_, ?_, fun e f g h t hrun ht => ?_⟩
  · rw [exec_setState, State.answerOr_accessFault_of_halted hhalted]
  · exact exec_setState_of_running hrun a b c d
  · rw [exec_setState, exec_resetIv]; rfl
  · exact exec_setState_regs (exec_setState_halted hrun ht) a b c d

/-- Settles O32: the fault or the result by HALTED. -/
theorem resetIvCommand : Obligations.ResetIvCommand := by
  refine fun s => ⟨fun hhalted => ?_, fun hrun => ?_⟩
  · rw [exec_resetIv, State.answerOr_accessFault_of_halted hhalted]
  · exact exec_resetIv_of_running hrun

end Sys2Proof.Machine
end

section
/-! PROOF. The command DIGEST (44_digest.md): what it answers, that it is PAD, COMPRESS, FORMAT and RESET_IV in one, that its result
does not depend on the engine, and length extension. -/

namespace Sys2Proof.Machine

/-! ## DIGEST (R216) -/

/-- DIGEST without a fault: the message to MB, framing, the compression, the end of the command (R216). -/
theorem exec_digest_of_noFault {s : State} {msg : List Byte} (hrun : s.halted = false) (hfits : s.messageFits msg.length) :
    exec (.digest msg) s = .next (s.receive msg).frame.compressAll.finishDigest := by
  rw [exec_digest, messageFault_of_fits hrun hfits]
  rfl

/-- Compressing the framed message chains the registers over its padded words (R110, R216). -/
theorem State.regs_compressAll_frame_receive (s : State) {msg : List Byte} (hv : s.params.valid)
    (hfits : s.messageFits msg.length) : (s.receive msg).frame.compressAll.regs = chain s.regs (paddedWords msg) := by
  obtain ⟨hlen, hwords⟩ := s.messageFits_bounds msg.length hv hfits
  rw [s.frame_receive msg (by omega)]
  exact (s.receive msg).compressAll_load_regs _ (by rw [paddedWords_length]; exact hwords)

/-- What the host sees of DIGEST: the digest from the old registers, and the IV in them (R216, R218). -/
theorem State.hostView_digested (s : State) {msg : List Byte} (hv : s.params.valid) (hfits : s.messageFits msg.length) :
    (s.receive msg).frame.compressAll.finishDigest.hostView = { s.hostView with
      regs := Config.iv, activity := .idle, outbox := s.outbox ++ [okResponse (.digest (digestFrom s.regs msg))] } := by
  rw [State.hostView_finishDigest, State.hostView_compressAll, State.hostView_frame, State.hostView_receive,
    s.regs_compressAll_frame_receive hv hfits]
  rfl

/-- Settles O34: the first fault of R238 in its order, or the digest. -/
theorem digestCommand : Obligations.DigestCommand := by
  intro s msg hv
  refine ⟨fun hhalted => ?_, fun hrun hfits => ?_, fun hrun hfits => ?_⟩
  · rw [exec_digest, messageFault_of_halted hhalted]; rfl
  · rw [exec_digest, messageFault_of_not_fits hrun hfits]; rfl
  · exact ⟨_, exec_digest_of_noFault hrun hfits, s.hostView_digested hv hfits⟩

/-! ## DIGEST as four commands (R221) -/

/-- PAD without a fault: the message to MB, framing, the words read back from PB (R92). -/
theorem exec_pad_of_noFault {s : State} {msg : List Byte} (hrun : s.halted = false) (hv : s.params.valid)
    (hfits : s.messageFits msg.length) :
    exec (.pad msg) s = .next ((s.receive msg).frame.release.respond (.words (paddedWords msg))) := by
  obtain ⟨hlen, hwords⟩ := s.messageFits_bounds msg.length hv hfits
  rw [exec_pad, messageFault_of_fits hrun hfits, s.storedWords_frame_receive (by omega) hwords]
  rfl

/-- The padded words of a message that fits are whole blocks that fit PB (R92, R96). -/
theorem State.paddedWords_fit {s : State} {msg : List Byte} (hfits : s.messageFits msg.length) :
    (paddedWords msg).length ≤ s.params.pbCap ∧ (paddedWords msg).length % 16 = 0 := by
  obtain ⟨_, hwords⟩ := hfits
  rw [paddedWords_length]
  exact ⟨hwords, Nat.mul_mod_right _ _⟩

/-- PAD, then COMPRESS of the words it answered: the registers chained over them, and one response each. -/
theorem exec_pad_compress {s : State} {msg : List Byte} (hrun : s.halted = false) (hv : s.params.valid)
    (hfits : s.messageFits msg.length) :
    ∃ s1 s2, exec (.pad msg) s = .next s1 ∧ s1.outbox = s.outbox ++ [okResponse (.words (paddedWords msg))]
      ∧ exec (.compress (paddedWords msg)) s1 = .next s2 ∧ s2.outbox = s1.outbox ++ [okResponse .empty]
      ∧ s2.regs = chain s.regs (paddedWords msg) ∧ s2.halted = false := by
  obtain ⟨hle, hmod⟩ := State.paddedWords_fit hfits
  obtain ⟨_, hlt⟩ := s.messageFits_bounds msg.length hv hfits
  exact ⟨_, _, exec_pad_of_noFault hrun hv hfits, rfl, exec_compress_of_noFault hrun hle hmod, by simp,
    State.compressAll_load_regs _ _ (by rw [paddedWords_length]; exact hlt), by simpa using hrun⟩

/-- Settles O35: FORMAT after PAD and COMPRESS answers the digest that DIGEST answers. -/
theorem digestIsPadCompressFormatReset : Obligations.DigestIsPadCompressFormatReset := by
  intro s msg hv hrun hfits
  obtain ⟨s1, s2, hpad, hout1, hcompress, hout2, hregs, hrun2⟩ := exec_pad_compress hrun hv hfits
  have hformat := exec_format_of_running hrun2
  rw [hregs] at hformat
  have hview := s.hostView_digested hv hfits
  exact ⟨paddedWords msg, digestFrom s.regs msg, s1, s2, _, _, _, hpad, hout1, hcompress, hout2, hformat, rfl,
    exec_resetIv_of_running hrun2, rfl, exec_digest_of_noFault hrun hfits, congrArg HostView.outbox hview,
    rfl, (congrArg HostView.halted hview).trans (hrun.trans hrun2.symm), fun hiv => by rw [hiv, md4]⟩

/-! ## DIGEST entered at the IV (R220) -/

/-- DIGEST entered at the IV answers MD4 (R217, R220). -/
theorem exec_digest_at_iv {s : State} {msg : List Byte} (hrun : s.halted = false) (hv : s.params.valid)
    (hfits : s.messageFits msg.length) (hiv : s.regs = Config.iv) :
    ∃ t, exec (.digest msg) s = .next t ∧ t.outbox = s.outbox ++ [okResponse (.digest (md4 msg))] := by
  have h := exec_digest_of_fits hrun hv hfits
  rwa [hiv] at h

/-- DIGEST leaves a running engine of the same configuration, at the IV (R216). -/
theorem exec_digest_leaves_iv {s : State} {msg : List Byte} (hrun : s.halted = false) (hfits : s.messageFits msg.length) :
    ∃ t, exec (.digest msg) s = .next t ∧ t.regs = Config.iv ∧ t.halted = false ∧ t.params = s.params :=
  ⟨_, exec_digest_of_noFault hrun hfits, rfl, by simpa using hrun, by simp⟩

/-- Settles O37: each engine answers MD4 of the message, and a DIGEST leaves the engine at the IV for the next. -/
theorem digestIsDeterministic : Obligations.DigestIsDeterministic := by
  refine ⟨fun s u m hvs hvu hruns hrunu hivs hivu hfits hfitu => ?_, fun s m1 m2 hv hrun hfits1 hfits2 => ?_⟩
  · obtain ⟨s', hs, houts⟩ := exec_digest_at_iv hruns hvs hfits hivs
    obtain ⟨u', hu, houtu⟩ := exec_digest_at_iv hrunu hvu hfitu hivu
    exact ⟨s', u', _, hs, hu, houts, houtu⟩
  · obtain ⟨s', hs, hiv, hrun', hparams⟩ := exec_digest_leaves_iv hrun hfits1
    obtain ⟨s'', hs'', hout⟩ := exec_digest_at_iv (msg := m2) hrun' (hparams ▸ hv)
      (by rw [State.messageFits, hparams]; exact hfits2) hiv
    exact ⟨s', s'', hs, hiv, hs'', hout⟩

/-! ## Length extension (R222) -/

/-- Whole words in front of a byte string are picked up as they are without it (R99). -/
theorem wordsOfBytes_append : ∀ bs cs : List Byte, bs.length % 4 = 0 →
    wordsOfBytes (bs ++ cs) = wordsOfBytes bs ++ wordsOfBytes cs
  | [], _, _ => rfl
  | b0 :: b1 :: b2 :: b3 :: rest, cs, h => by
    have hrest : rest.length % 4 = 0 := by simp only [List.length_cons] at h; omega
    exact congrArg (le32 b0 b1 b2 b3 :: ·) (wordsOfBytes_append rest cs hrest)
  | [_], _, h | [_, _], _, h | [_, _, _], _, h => nomatch h

/-- The words that framing gives for `extra` and its own padding, after a padded message of `L` bytes (R222). -/
def continuationWords (L : Nat) (extra : List Byte) : List Word :=
  wordsOfBytes (extra ++ paddingOf (64 * blockCount L + extra.length))

/-- A message that begins with the padding of `m` is padded to the words of `m`, then the continuation (R222). -/
theorem paddedWords_paddedMessage_append (m extra : List Byte) :
    paddedWords (paddedMessage m ++ extra) = paddedWords m ++ continuationWords m.length extra := by
  have hlen := paddedMessage_length m
  rw [paddedWords, paddedMessage, List.length_append, hlen, List.append_assoc, wordsOfBytes_append _ _ (by omega)]
  rfl

/-- The continuation is what comes after the words of `m`. -/
theorem drop_paddedWords_paddedMessage_append (m extra : List Byte) :
    (paddedWords (paddedMessage m ++ extra)).drop (16 * blockCount m.length) = continuationWords m.length extra := by
  rw [paddedWords_paddedMessage_append, ← paddedWords_length, List.drop_left]

/-- The continuation and the words of `m` are all the words of the extended message. -/
theorem continuationWords_length (m extra : List Byte) :
    (continuationWords m.length extra).length + 16 * blockCount m.length
      = 16 * blockCount (paddedMessage m ++ extra).length := by
  have h := congrArg List.length (paddedWords_paddedMessage_append m extra)
  rw [List.length_append, paddedWords_length, paddedWords_length] at h
  omega

/-- Where the extended message fits, the continuation is whole blocks that fit PB. -/
theorem State.continuationWords_fit {s : State} {m extra : List Byte}
    (hfits : s.messageFits (paddedMessage m ++ extra).length) :
    (continuationWords m.length extra).length ≤ s.params.pbCap ∧ (continuationWords m.length extra).length % 16 = 0 := by
  have hcont := continuationWords_length m extra
  have hfull := paddedWords_length (paddedMessage m ++ extra)
  obtain ⟨hle, _⟩ := State.paddedWords_fit hfits
  omega

/-- Chaining over the continuation goes on from the registers that the digest of `m` gives back (R194, R222). -/
theorem formatDigest_chain_continuationWords (r : Regs) (m extra : List Byte) :
    formatDigest (chain (registersOfDigest (digestFrom r m)) (continuationWords m.length extra))
      = digestFrom r (paddedMessage m ++ extra) := by
  have hlen := continuationWords_length m extra
  have hm := paddedWords_length m
  rw [digestFrom, registersOfDigest_formatDigest, digestFrom, paddedWords_paddedMessage_append,
    chain_append _ _ _ (by omega) (by omega)]

/-- SET_STATE, COMPRESS and FORMAT answer the digest of the words from the registers set (R202, R112, R191). -/
theorem execAll_setState_compress_format {s : State} (hrun : s.halted = false) (hv : s.params.valid) (r : Regs)
    {words : List Word} (hle : words.length ≤ s.params.pbCap) (hmod : words.length % 16 = 0) :
    ∃ t, execAll [.setState r.a r.b r.c r.d, .compress words, .format] s = .next t
      ∧ t.outbox = s.outbox
        ++ [okResponse .empty, okResponse .empty, okResponse (.digest (formatDigest (chain r words)))] := by
  obtain ⟨_, _, _, hcap⟩ := hv
  have hset := exec_setState_of_running hrun r.a r.b r.c r.d
  have hcompress := exec_compress_of_noFault (s := (s.setRegs r).respond .empty) hrun hle hmod
  have hformat := exec_format_of_running (s := (((s.setRegs r).respond .empty).load words).compressAll.finishCompress)
    (by simpa using hrun)
  have hregs := ((s.setRegs r).respond .empty).compressAll_load_regs words (by omega)
  refine ⟨_, (execAll_cons_of_next hset).trans ((execAll_cons_of_next hcompress).trans
    (execAll_singleton_of_next hformat)), ?_⟩
  simp [hregs]

/-- Settles O38: the words of the extended message split after those of `m`, and the chain with them. -/
theorem lengthExtension : Obligations.LengthExtension := by
  intro s m extra full cont r hv hrun hfits
  have hcont : cont = continuationWords m.length extra := drop_paddedWords_paddedMessage_append m extra
  have hdigest : formatDigest (chain r (continuationWords m.length extra)) = md4 full :=
    formatDigest_chain_continuationWords Config.iv m extra
  obtain ⟨hle, hmod⟩ := State.continuationWords_fit (m := m) (extra := extra) hfits
  refine ⟨⟨_, exec_pad_of_noFault hrun hv hfits, rfl⟩, ?_, fun m' hm' => ?_⟩
  · rw [← hdigest, hcont]
    exact execAll_setState_compress_format hrun hv r hle hmod
  · rw [hcont, ← hm']
    exact drop_paddedWords_paddedMessage_append m' extra

end Sys2Proof.Machine
end

section
/-! PROOF. Exceptions (60_exceptions.md): what a halted engine and a reserved header answer, what a fault leaves, and that under the
invariant and the host's duty of R273 the engine never stops. -/

namespace Sys2Proof.Machine

/-! ## The engine never stops (R234, R271, R273) -/

/-- A step takes at most the first of the host's events. -/
theorem step_inbox_suffix {s t : State} (h : step s = .next t) : t.inbox <:+ s.inbox := by
  rcases step_cases s with ⟨_, _, e⟩ | ⟨rest, hin, e⟩ | ⟨_, _, rest, hin, _, e⟩ | ⟨_, _, rest, i, hin, hd, e⟩
    | ⟨_, _, rest, hin, _, e⟩ | ⟨_, _, _, _, _, e⟩ | ⟨c, _, _, i, hi, e⟩ | ⟨_, _, _, _, e⟩
  · cases e.symm.trans h -- the engine waits
    exact List.suffix_rfl
  · cases e.symm.trans h -- hardware reset
    exact hin ▸ List.suffix_cons _ rest
  · cases e.symm.trans h -- a packet cut short by hardware reset
    exact hin ▸ List.suffix_cons _ rest
  · obtain ⟨u, _, hu, _, _, hinbox, _⟩ := exec_command_answer { s with inbox := rest } (isCommand_of_decode hd)
    cases hu.symm.trans (e.symm.trans h)
    rw [hinbox, hin]
    exact List.suffix_cons _ rest
  · cases e.symm.trans h -- a packet with a reserved header
    exact hin ▸ List.suffix_cons _ rest
  · cases e.symm.trans h -- a malformed packet: no next state
  · obtain ⟨u, hu, ⟨_, _, hinbox⟩, _⟩ := stepSequencer_cases s c i hi -- a step of the sequencer
    cases hu.symm.trans (e.symm.trans h)
    exact hinbox ▸ List.suffix_rfl
  · cases e.symm.trans h -- no step is selected: no next state

/-- A legal event that presents a packet presents one that is not malformed (R273). -/
theorem HostEvent.decode_ne_malformed {e : HostEvent} (h : e.legal = true) {p : Packet}
    (he : e = .packet p ∨ e = .packetCutByReset p) : decode p ≠ .malformed := by
  rcases he with rfl | rfl <;> exact of_decide_eq_true h

/-- Inside a compression the invariant keeps `t` where it selects a step (R27, R74). -/
theorem State.Inv.decodeStep_ne_none {s : State} (hs : s.Inv) {c : Caller} (hact : s.activity = .compressing c) :
    decodeStep s.t ≠ none := by
  obtain ⟨_, _, _, _, _, hidle | ⟨_, ht, _⟩⟩ := hs
  · cases hidle.symm.trans hact
  · rw [← Option.isSome_iff_ne_none, decodeStep_isSome]
    exact decide_eq_true ht

/-- The two outcomes that stop the machine are ruled out: a malformed packet by the host's duty, a sequencer value that selects
no step by the invariant. -/
theorem State.Inv.step_answers {s : State} (hs : s.Inv) (hlegal : ∀ e ∈ s.inbox, e.legal = true) :
    ∃ t, step s = .next t := by
  rcases step_cases s with ⟨_, _, e⟩ | ⟨_, _, e⟩ | ⟨_, _, _, _, _, e⟩ | ⟨_, _, rest, i, _, _, e⟩
    | ⟨_, _, _, _, _, e⟩ | ⟨_, p, rest, hin, hd, _⟩ | ⟨c, _, _, i, hi, e⟩ | ⟨c, hact, _, hd, _⟩
  · exact ⟨_, e⟩ -- the engine waits
  · exact ⟨_, e⟩ -- hardware reset
  · exact ⟨_, e⟩ -- a packet cut short by hardware reset
  · rw [e] -- a command
    exact exec_answers i _
  · exact ⟨_, e⟩ -- a packet with a reserved header
  · exfalso -- a malformed packet
    rcases hin with hin | hin <;> rw [hin] at hlegal
    · exact HostEvent.decode_ne_malformed (hlegal _ List.mem_cons_self) (.inl rfl) hd
    · exact HostEvent.decode_ne_malformed (hlegal _ List.mem_cons_self) (.inr rfl) hd
  · obtain ⟨t, ht, _⟩ := stepSequencer_cases s c i hi -- a step of the sequencer
    exact ⟨t, e.trans ht⟩
  · exact absurd hd (hs.decodeStep_ne_none hact) -- no step is selected

/-- Settles O47: the step answers; the invariant is kept, and what is left of the host's stream was legal before. -/
theorem engineNeverStops : Obligations.EngineNeverStops := by
  intro s hs hlegal
  obtain ⟨t, ht⟩ := hs.step_answers hlegal
  exact ⟨t, ht, stepKeepsTheInvariant s t hs ht, fun e he => hlegal e ((step_inbox_suffix ht).mem he)⟩

/-! ## The halted engine (R235) -/

theorem exec_command_of_halted {i : Instr} {s : State} (hc : i.isCommand = true) (hhalt : s.halted = true) :
    exec i s = .next (s.raise .halted) := by
  obtain ⟨t, ht, hcases⟩ := exec_command_cases i s hc
  rcases hcases with ⟨_, rfl⟩ | ⟨hrun, _⟩ | ⟨hrun, _⟩ | ⟨hrun, _⟩
  · exact ht
  all_goals cases hhalt.symm.trans hrun

theorem State.answerIllegal_of_halted {s : State} (hhalt : s.halted = true) : s.answerIllegal = s.raise .halted := by
  rw [State.answerIllegal, if_pos hhalt]

/-- HALTED is the answer to every packet that is not malformed. -/
theorem step_of_packet_of_halted {s : State} {p : Packet} {rest : List HostEvent} (ha : s.activity = .idle)
    (hhalt : s.halted = true) (hin : s.inbox = .packet p :: rest) (hd : decode p ≠ .malformed) :
    step s = .next (State.raise { s with inbox := rest } .halted) := by
  have htaken : State.halted { s with inbox := rest } = true := hhalt
  cases hv : decode p with
  | command i => rw [step_of_command ha hin hv, exec_command_of_halted (isCommand_of_decode hv) htaken]
  | illegal => rw [step_of_reservedHeader ha hin hv, State.answerIllegal_of_halted htaken]
  | malformed => exact absurd hv hd

/-- Of all steps only hardware reset, alone or cutting a packet short, clears HALTED. -/
theorem inbox_of_step_clears_halted {s t : State} (hhalt : s.halted = true) (h : step s = .next t) (hrun : t.halted = false) :
    ∃ rest, s.inbox = .hardwareReset :: rest ∨ ∃ p, s.inbox = .packetCutByReset p :: rest := by
  rcases step_cases s with ⟨_, _, e⟩ | ⟨rest, hin, _⟩ | ⟨_, p, rest, hin, _⟩ | ⟨_, _, rest, i, _, hd, e⟩
    | ⟨_, _, rest, _, _, e⟩ | ⟨_, _, _, _, _, e⟩ | ⟨c, _, _, i, hi, e⟩ | ⟨_, _, _, _, e⟩
  · cases e.symm.trans h -- the engine waits
    cases hhalt.symm.trans hrun
  · exact ⟨rest, .inl hin⟩
  · exact ⟨rest, .inr ⟨p, hin⟩⟩
  · have hu := exec_command_of_halted (s := { s with inbox := rest }) (isCommand_of_decode hd) hhalt -- a command
    cases hu.symm.trans (e.symm.trans h)
    cases hhalt.symm.trans hrun
  · cases e.symm.trans h -- a packet with a reserved header
    rw [State.answerIllegal_halted] at hrun
    cases hhalt.symm.trans hrun
  · cases e.symm.trans h -- a malformed packet: no next state
  · obtain ⟨u, hu, ⟨hhalted, _⟩, _⟩ := stepSequencer_cases s c i hi -- a step of the sequencer
    cases hu.symm.trans (e.symm.trans h)
    cases hhalt.symm.trans (hhalted.symm.trans hrun)
  · cases e.symm.trans h -- no step is selected: no next state

/-- Settles O40: a command, a packet that `step` takes, and what clears the flag. The HALTED fault writes nothing but its response. -/
theorem haltedRefusesEveryPacket : Obligations.HaltedRefusesEveryPacket :=
  ⟨fun _ _ hc hhalt => exec_command_of_halted hc hhalt,
   fun _ _ _ ha hhalt hin hd => step_of_packet_of_halted ha hhalt hin hd,
   fun _ _ hhalt h hrun => inbox_of_step_clears_halted hhalt h hrun⟩

/-! ## Reserved headers (R232) -/

theorem State.answerIllegal_of_running {s : State} (hrun : s.halted = false) : s.answerIllegal = s.raise .illegal := by
  rw [State.answerIllegal, hrun, if_neg Bool.false_ne_true]

/-- Settles O41: a reserved header is illegal to the decoder, and ILLEGAL changes nothing but the responses. -/
theorem reservedHeaderAnswersIllegal : Obligations.ReservedHeaderAnswersIllegal := by
  intro s p rest ha hrun hin hlen hheader
  have htaken : State.halted { s with inbox := rest } = false := hrun
  rw [step_of_reservedHeader ha hin (decode_of_reservedHeader hlen hheader), State.answerIllegal_of_running htaken]
  rfl

/-! ## What a fault leaves (R230) -/

/-- An OK response has status 0 (R68). -/
theorem okResponse_status (p : Payload) : (okResponse p).field 0 4 = 0#4 := by
  have hheader := congrArg BitVec.toNat (okResponse_header p)
  rw [Packet.field_toNat, BitVec.toNat_ofNat] at hheader
  apply BitVec.eq_of_toNat_eq
  rw [Packet.field_toNat, BitVec.toNat_ofNat]
  omega

/-- Settles O43: the three faults a command can take, and the OK response, whose status is 0. -/
theorem faultsWriteNothing : Obligations.FaultsWriteNothing := by
  intro i s hc
  obtain ⟨t, ht, hcases⟩ := exec_command_cases i s hc
  rcases hcases with ⟨_, rfl⟩ | ⟨_, rfl⟩ | ⟨_, ⟨ws, hi, _⟩, rfl⟩ | ⟨_, _, _, _, p, hout⟩
  · exact ⟨_, faultResponse .halted, ht, rfl, fun _ => ⟨.inr (.inr (.inr rfl)), rfl, .inl rfl⟩⟩
  · exact ⟨_, faultResponse .capacity, ht, rfl, fun _ => ⟨.inl rfl, rfl, .inl rfl⟩⟩
  · exact ⟨_, faultResponse .align, ht, rfl, fun _ => ⟨.inr (.inl rfl), rfl, .inr ⟨rfl, rfl, ws, hi⟩⟩⟩
  · exact ⟨t, okResponse p, ht, hout, fun hstatus => absurd (okResponse_status p) hstatus⟩

/-! ## Waiting (R251) -/

/-- Settles O9: the step of an engine that is presented nothing. -/
theorem waitingChangesNothing : Obligations.WaitingChangesNothing := fun _ ha hin => step_of_nothingPresented ha hin

end Sys2Proof.Machine
end

section
/-! PROOF. Hazards (70_reset_and_hazards.md): a state that SET_STATE sets is used up by the first DIGEST after it. -/

namespace Sys2Proof.Machine

/-- All of DIGEST without a fault: the digest from the old registers is answered, and a running engine of the same configuration
is left at the IV (R216, R218). -/
theorem exec_digest_answers_and_leaves_iv {s : State} {msg : List Byte} (hrun : s.halted = false) (hv : s.params.valid)
    (hfits : s.messageFits msg.length) :
    ∃ t, exec (.digest msg) s = .next t ∧ t.outbox = s.outbox ++ [okResponse (.digest (digestFrom s.regs msg))]
      ∧ t.regs = Config.iv ∧ t.halted = false ∧ t.params = s.params := by
  have hview := s.hostView_digested hv hfits
  exact ⟨_, exec_digest_of_noFault hrun hfits, congrArg HostView.outbox hview, congrArg HostView.regs hview,
    (congrArg HostView.halted hview).trans hrun, congrArg HostView.params hview⟩

/-- Settles O36: the first DIGEST is entered at the registers set, and leaves the IV for the second. -/
theorem setStateIsUsedOnce : Obligations.SetStateIsUsedOnce := by
  intro s a b c d m1 m2 hv hrun hfits1 hfits2
  have hset := exec_setState_of_running hrun a b c d
  obtain ⟨u, hu, houtu, hiv, hrunu, hparams⟩ := exec_digest_answers_and_leaves_iv (msg := m1)
    (s := (s.setRegs { a := a, b := b, c := c, d := d }).respond .empty) hrun hv hfits1
  have hfitu : u.messageFits m2.length := by rw [State.messageFits, hparams]; exact hfits2
  obtain ⟨t, ht, houtt, hivt, _⟩ := exec_digest_answers_and_leaves_iv hrunu (hparams ▸ hv) hfitu
  refine ⟨t, ?_, ?_, hivt⟩
  · rw [execAll_cons_of_next hset, execAll_cons_of_next hu, execAll_singleton_of_next ht]
  · rw [houtt, houtu, hiv]
    simp [md4]

end Sys2Proof.Machine
end
